-- ==== Sys2Proof/Word.lean ====
section
/-! DEFINITION. The word types of the block: every value is an unsigned bit vector (00_scope.md R7). -/

namespace Sys2Proof

/-- One byte: a codeword, a character, a GF(256) element, an exponent. -/
abbrev Byte := BitVec 8

/-- One 32-bit word of the host bus (20_memory.md R60). -/
abbrev Word := BitVec 32

/-- A 12-bit byte address of the host space, an offset from BASE_ADDR (20_memory.md R60). -/
abbrev Addr := BitVec 12

end Sys2Proof
end

