-- ==== Sys2Proof/Config.lean ====
section
/-! DEFINITION. What the implementation fixes (00_scope.md R6) and the values the spec leaves open
(93_implementation_defined.md section 1). -/

namespace Sys2Proof

/-- ID_VALUE: the letters "QR", major 0, revision 7 (10_state.md R21). -/
def Config.idValue : Word := 0x51520007#32

/-- TEXT_MAX, characters (00_scope.md R6, 10_state.md R29). -/
def Config.textMax : Nat := 256

/-- BITBUF_BITS (00_scope.md R6, 10_state.md R30). -/
def Config.bitbufBits : Nat := 2048

/-- ECBUF_BYTES (00_scope.md R6, 10_state.md R31). -/
def Config.ecbufBytes : Nat := 32

/-- GENBUF_BYTES (00_scope.md R6, 10_state.md R46). -/
def Config.genbufBytes : Nat := 64

/-- GEN_MAX_DEG (00_scope.md R6, 10_state.md R35). -/
def Config.genMaxDeg : Nat := 32

/-- FINAL_BYTES (00_scope.md R6, 10_state.md R32). -/
def Config.finalBytes : Nat := 512

/-- CAP_VERSIONS, the versions of the capacity ROM (00_scope.md R6). -/
def Config.capVersions : List Nat := [1, 2, 3, 4]

/-- MAX_MATRIX_VERSION (00_scope.md R6). -/
def Config.maxMatrixVersion : Nat := 4

/-- The upper end of COUNT_VERSIONS (00_scope.md R6). -/
def Config.maxCountVersion : Nat := 40

/-- The side of the matrix store, 33 cells (10_state.md R48). -/
def Config.storeSide : Nat := 33

/-- BASE_ADDR, chosen by the system: OPEN (93_implementation_defined.md I5). No value is fixed and
no rule depends on it; every address of the model is an offset from it (log 12). -/
opaque Config.baseAddr : Nat

/-- The content of a buffer byte that nothing has written since the hardware reset numbered by the
first argument, at the bus address of the second: a free value, one draw per byte and reset, stable
until written (93_implementation_defined.md I3, 20_memory.md R67; log 3). -/
opaque Config.powerOnByte : Nat → Nat → Byte

/-- The word an unspecified read answers, a fresh draw per read: the argument is the number of such
reads answered before (93_implementation_defined.md I1 and I2; log 4, log 5). -/
opaque Config.unspecifiedRead : Nat → Word

end Sys2Proof
end

