-- ==== Sys2Proof/Syntax.lean ====
section
/-! DEFINITION. The commands of the block, one constructor per row of spec/opcode_table.json
(30_encoding.md R83). A command word carries no operand (R81), so no constructor has a field. -/

namespace Sys2Proof

/-- The 19 commands (30_encoding.md R83). -/
inductive Instr where
  /-- 0x00, 44_control.md R240 -/
  | nop
  /-- 0x01, 41_bitstream.md R138 -/
  | selectMode
  /-- 0x02, 41_bitstream.md R140 -/
  | selectVersion
  /-- 0x03, 41_bitstream.md R134 -/
  | capLookup
  /-- 0x04, 41_bitstream.md R147 -/
  | modeInd
  /-- 0x05, 41_bitstream.md R148 -/
  | countInd
  /-- 0x06, 41_bitstream.md R149 -/
  | buildBitstream
  /-- 0x07, 41_bitstream.md R154 -/
  | buildPadded
  /-- 0x10, 40_gf256.md R110 -/
  | gfLog
  /-- 0x11, 40_gf256.md R111 -/
  | gfExp
  /-- 0x12, 40_gf256.md R112 -/
  | gfMula
  /-- 0x13, 40_gf256.md R113 -/
  | gfXor
  /-- 0x14, 40_gf256.md R114 -/
  | gfMul
  /-- 0x18, 42_reed_solomon.md R183 -/
  | genPoly
  /-- 0x19, 42_reed_solomon.md R186 -/
  | rsEncode
  /-- 0x1A, 42_reed_solomon.md R190 -/
  | assemble
  /-- 0x20, 43_matrix.md R220 -/
  | placeMatrix
  /-- 0x30, 44_control.md R242 -/
  | encode
  /-- 0xFF, 44_control.md R241 -/
  | softReset
  deriving DecidableEq, Repr

end Sys2Proof
end

