-- ==== Sys2Proof/WellFormed.lean ====
section
/-! DEFINITION. Which command words have the form of a command, and which instructions are well
formed. A command has no operand field (30_encoding.md R81), so the checks are about the word. -/

namespace Sys2Proof

/-- The reserved field [31:8] of a command word is 0 (30_encoding.md R80). -/
def WellFormed.reservedClear (w : Word) : Bool := w.toNat / 256 == 0

/-- The OPCODE field [7:0] is one of the assigned opcodes: the complement of the unassigned ranges
0x08..0x0F, 0x15..0x17, 0x1B..0x1F, 0x21..0x2F and 0x31..0xFE (30_encoding.md R83). -/
def WellFormed.opcodeAssigned (w : Word) : Bool :=
  let op := w.toNat % 256
  !((0x08 ≤ op && op ≤ 0x0F) || (0x15 ≤ op && op ≤ 0x17) || (0x1B ≤ op && op ≤ 0x1F) ||
    (0x21 ≤ op && op ≤ 0x2F) || (0x31 ≤ op && op ≤ 0xFE))

/-- A well-formed command word (30_encoding.md R82): all others are illegal. -/
def WellFormed.word (w : Word) : Bool := WellFormed.reservedClear w && WellFormed.opcodeAssigned w

/-- Every instruction term is well formed: it has no operand that could be out of range
(30_encoding.md R81). -/
def Instr.wellFormed (_ : Instr) : Bool := true

end Sys2Proof
end

