-- ==== Sys2Proof/Decode.lean ====
section
/-! DEFINITION. The decoder of command words, total on all 2^32 words and rejecting by name
(30_encoding.md R82, R83), and the encoder written from the same table. -/

namespace Sys2Proof

/-- Why a command word is illegal (30_encoding.md R82, R85). -/
inductive IllegalReason where
  /-- bits [31:8] are not 0 -/
  | reservedBits
  /-- the OPCODE is not in the table -/
  | unassignedOpcode
  deriving DecidableEq, Repr

/-- What a command word is: one of the 19 commands or illegal (30_encoding.md R82, R85). -/
inductive Decoded where
  | command (i : Instr)
  | illegal (why : IllegalReason)
  deriving DecidableEq, Repr

/-- The opcode map read from OPCODE to command (30_encoding.md R83). -/
def decodeOpcode (op : Nat) : Option Instr :=
  match op with
  | 0x00 => some .nop
  | 0x01 => some .selectMode
  | 0x02 => some .selectVersion
  | 0x03 => some .capLookup
  | 0x04 => some .modeInd
  | 0x05 => some .countInd
  | 0x06 => some .buildBitstream
  | 0x07 => some .buildPadded
  | 0x10 => some .gfLog
  | 0x11 => some .gfExp
  | 0x12 => some .gfMula
  | 0x13 => some .gfXor
  | 0x14 => some .gfMul
  | 0x18 => some .genPoly
  | 0x19 => some .rsEncode
  | 0x1A => some .assemble
  | 0x20 => some .placeMatrix
  | 0x30 => some .encode
  | 0xFF => some .softReset
  | _ => none

/-- Decoding of a command word (30_encoding.md R82). -/
def decode (w : Word) : Decoded :=
  if w.toNat / 256 = 0 then
    match decodeOpcode (w.toNat % 256) with
    | some i => .command i
    | none => .illegal .unassignedOpcode
  else .illegal .reservedBits

/-- The opcode of a command (30_encoding.md R83). -/
def opcode : Instr → Nat
  | .nop => 0x00
  | .selectMode => 0x01
  | .selectVersion => 0x02
  | .capLookup => 0x03
  | .modeInd => 0x04
  | .countInd => 0x05
  | .buildBitstream => 0x06
  | .buildPadded => 0x07
  | .gfLog => 0x10
  | .gfExp => 0x11
  | .gfMula => 0x12
  | .gfXor => 0x13
  | .gfMul => 0x14
  | .genPoly => 0x18
  | .rsEncode => 0x19
  | .assemble => 0x1A
  | .placeMatrix => 0x20
  | .encode => 0x30
  | .softReset => 0xFF

/-- The command word of a command: OPCODE in [7:0], the reserved field 0 (30_encoding.md R80). -/
def encode (i : Instr) : Word := BitVec.ofNat 32 (opcode i)

/-- The command a decoded word stands for, none where the word is illegal. -/
def Decoded.instr? : Decoded → Option Instr
  | .command i => some i
  | .illegal _ => none

/-- The instruction the decoder reads from a command word of nbits bits, numbered as the opcode
table numbers them; the word of this block is one 32-bit word (30_encoding.md R80), so a longer
value is no command word. -/
def decodeTableWord (nbits w : Nat) : Option Instr :=
  let v := w % 2 ^ nbits
  if v < 2 ^ 32 then (decode (BitVec.ofNat 32 v)).instr? else none

end Sys2Proof
end

