-- ==== Sys2Proof/Machine/State.lean ====
section
/-! DEFINITION. The state of the block as plain data (10_state.md), the host's coming bus activity,
the reasons a step can stop, and the state after reset. -/

namespace Sys2Proof.Machine

/-- The error codes of 60_exceptions.md R261. An error is an ordinary completion, not a fault. -/
inductive ErrCode where
  /-- code 1 -/
  | invalidArgument
  /-- code 2 -/
  | notImplemented
  /-- code 3 -/
  | outOfRange
  /-- code 4 -/
  | notFound
  /-- code 5 -/
  | illegalCommand
  deriving DecidableEq, Repr

/-- What the outside world can do to the block: one word access of the bus port (20_memory.md R60)
or a change of the level of the reset input (70_reset_and_hazards.md R290). -/
inductive BusOp where
  /-- a bus read of one word -/
  | read (a : Addr)
  /-- a bus write of one word -/
  | write (a : Addr) (v : Word)
  /-- the reset input is asserted (true) or released (false) -/
  | resetPin (asserted : Bool)
  deriving DecidableEq, Repr

/-- A coming event of the outside world with its place in time: `inWindow` says that, if a command
is pending when the event is next, the event happens before the completion of that command (inside
the BUSY window), otherwise after it (60_exceptions.md R266, 95_test_vectors.md P4; log 1). -/
structure BusEvent where
  inWindow : Bool
  op : BusOp
  deriving DecidableEq, Repr

/-- The buffers' contents: (bus address, byte) pairs, addresses strictly rising. An address that is
not listed has not been written since the last hardware reset (log 3, log 15). -/
abbrev Memory := List Host.Cell

/-- The state. Every register has its field's width (10_state.md R22 to R39). -/
structure State where
  /-- the accepted command word (R50, 60_exceptions.md R264); STATUS.BUSY = 1 exactly while present -/
  pending : Option Word
  /-- STATUS.DONE (R23) -/
  done : Bool
  /-- STATUS.ERR (R23) -/
  err : Bool
  /-- STATUS.HAZ (R23) -/
  haz : Bool
  /-- STATUS.ERRCODE (R23) -/
  errCode : BitVec 4
  /-- LEVEL (R24) -/
  level : BitVec 2
  /-- VERSION (R28) -/
  version : BitVec 6
  /-- MODE (R26) -/
  mode : BitVec 4
  /-- TEXT_LEN (R29) -/
  textLen : BitVec 9
  /-- BIT_LEN (R30) -/
  bitLen : BitVec 12
  /-- EC_LEN (R31) -/
  ecLen : BitVec 6
  /-- FINAL_LEN (R32) -/
  finalLen : BitVec 10
  /-- GF_A (R33) -/
  gfA : Byte
  /-- GF_B (R33) -/
  gfB : Byte
  /-- GF_R (R34) -/
  gfR : Byte
  /-- GEN_DEG (R35) -/
  genDeg : BitVec 6
  /-- GEN_LEN (R36) -/
  genLen : BitVec 6
  /-- FIELD_VAL (R37) -/
  fieldVal : BitVec 16
  /-- FIELD_W (R37) -/
  fieldW : BitVec 5
  /-- CAP_TOTAL (R38) -/
  capTotal : BitVec 8
  /-- CAP_DATA (R38) -/
  capData : BitVec 8
  /-- CAP_EC (R38) -/
  capEc : BitVec 7
  /-- CAP_BLOCKS (R38) -/
  capBlocks : BitVec 3
  /-- CAP_CHARS (R38) -/
  capChars : BitVec 8
  /-- SIDE (R39) -/
  side : BitVec 8
  /-- TEXT, BITBUF, ECBUF, GENBUF, FINAL and MATRIX at their bus addresses (R42 to R48) -/
  mem : Memory
  /-- the level of the reset input, true while asserted (70_reset_and_hazards.md R290) -/
  resetIn : Bool
  /-- the model's own: the outside world's coming events, next first (log 2) -/
  inputs : List BusEvent
  /-- the model's own: the words answered to host reads, oldest first (log 2) -/
  replies : List Word
  /-- the model's own: which hardware reset's RAM contents are current (log 7) -/
  epoch : Nat
  /-- the model's own: how many unspecified reads have been answered (log 7) -/
  draws : Nat
  deriving DecidableEq, Repr

/-- The block has no fault state and no stuck state (60_exceptions.md R274), so there is no fault
reason: nothing raises one. -/
inductive Fault where
  deriving DecidableEq, Repr

/-- Why exec gives an instruction no meaning. -/
inductive Refusal where
  /-- raised only by an arm of exec whose instruction has no meaning yet; safe, since the run stops.
  No arm of this model raises it. -/
  | notModelled (mnemonic : String)
  deriving DecidableEq, Repr

/-- The block right after hardware reset (10_state.md R53, 70_reset_and_hazards.md R290): every
register 0, no pending command, nothing written in the buffers, the reset input released. The
model's own fields are empty or 0 (log 2, log 7). -/
def State.reset : State where
  pending := none
  done := false
  err := false
  haz := false
  errCode := 0
  level := 0
  version := 0
  mode := 0
  textLen := 0
  bitLen := 0
  ecLen := 0
  finalLen := 0
  gfA := 0
  gfB := 0
  gfR := 0
  genDeg := 0
  genLen := 0
  fieldVal := 0
  fieldW := 0
  capTotal := 0
  capData := 0
  capEc := 0
  capBlocks := 0
  capChars := 0
  side := 0
  mem := []
  resetIn := false
  inputs := []
  replies := []
  epoch := 0
  draws := 0

end Sys2Proof.Machine
end

