-- ==== Sys2Proof/Machine/Ops.lean ====
section
/-! DEFINITION. The named operations over the buffers and the registers, and the completion of a
command (the block's form of taking an exception, 60_exceptions.md R260 to R264). -/

namespace Sys2Proof.Machine

/-! ## The buffers (10_state.md section 3, 20_memory.md R61) -/

/-- A buffer: where its first byte lies, how many bytes it has, and whether the host may write it. -/
structure Window where
  base : Nat
  size : Nat
  hostWritable : Bool
  deriving DecidableEq, Repr

/-- TEXT, 256 bytes, RW (10_state.md R42). -/
def textWindow : Window := ⟨0x100, 256, true⟩

/-- BITBUF, 256 bytes, RW (10_state.md R43). -/
def bitbufWindow : Window := ⟨0x200, 256, true⟩

/-- ECBUF, 32 bytes, RW (10_state.md R45). -/
def ecbufWindow : Window := ⟨0x300, 32, true⟩

/-- GENBUF, 64 bytes, RO (10_state.md R46). -/
def genbufWindow : Window := ⟨0x340, 64, false⟩

/-- FINAL, 512 bytes, RW (10_state.md R47). -/
def finalWindow : Window := ⟨0x400, 512, true⟩

/-- MATRIX, 33 rows of two words, RO (10_state.md R48). -/
def matrixWindow : Window := ⟨0x800, 264, false⟩

/-- The buffers of the address map (20_memory.md R61). -/
def windows : List Window :=
  [textWindow, bitbufWindow, ecbufWindow, genbufWindow, finalWindow, matrixWindow]

/-- The byte address a lies in the window. -/
def Window.covers (w : Window) (a : Nat) : Bool := w.base ≤ a && a < w.base + w.size

/-- The buffer the byte address lies in, none for registers and reserved addresses. -/
def windowAt (a : Nat) : Option Window := windows.find? (·.covers a)

/-- The bits of a buffer byte that exist: all of them but in MATRIX, whose row holds 33 cells in
two words, so that bits [31:1] of the second word read 0 (10_state.md R48; log 10). -/
def cellMask (a : Nat) : Byte :=
  if matrixWindow.covers a then
    (if (a - 0x800) % 8 < 4 then 0xFF#8 else if (a - 0x800) % 8 = 4 then 0x01#8 else 0x00#8)
  else 0xFF#8

/-! ## Memory -/

/-- The byte listed at an address, none where nothing has been written since the last reset. -/
def Memory.get? : Memory → Nat → Option Byte
  | [], _ => none
  | (k, b) :: rest, a => if k = a then some b else Memory.get? rest a

/-- Bytes as cells from an address on. -/
def cellsFrom : Nat → List Byte → Memory
  | _, [] => []
  | a, b :: bs => (a, b) :: cellsFrom (a + 1) bs

/-- Store bytes from address a on: what lies below, the bytes, what lies above. -/
def Memory.store (m : Memory) (a : Nat) (bs : List Byte) : Memory :=
  m.filter (fun c => c.1 < a) ++ cellsFrom a bs ++ m.filter (fun c => a + bs.length ≤ c.1)

/-- The addresses of a memory rise strictly. -/
def Memory.sorted : Memory → Bool
  | [] => true
  | [_] => true
  | c :: d :: rest => c.1 < d.1 && Memory.sorted (d :: rest)

/-- The canonical form: addresses strictly rising, each in a buffer (log 15). -/
def Memory.wf (m : Memory) : Bool := m.sorted && m.all (fun c => (windowAt c.1).isSome)

/-- What the buffer byte at a bus address holds: the byte last stored there, or the free value drawn
at the hardware reset (20_memory.md R67; log 3), on the bits that exist. -/
def State.readByte (s : State) (a : Nat) : Byte :=
  (match s.mem.get? a with
   | some b => b
   | none => Config.powerOnByte s.epoch a) &&& cellMask a

/-- n buffer bytes from an address on. -/
def State.readBytes (s : State) (a n : Nat) : List Byte :=
  (List.range n).map (fun k => s.readByte (a + k))

/-- Store bytes into a buffer from an address on. -/
def State.storeBytes (s : State) (a : Nat) (bs : List Byte) : State :=
  { s with mem := s.mem.store a bs }

/-- Matrix cell (x, y) = (column, row), 1 = dark: bit x of row y's two words (10_state.md R48). -/
def State.cell (s : State) (x y : Nat) : Bool :=
  (s.readByte (matrixWindow.base + 8 * y + x / 8)).getLsbD (x % 8)

/-- Stream bit i of BITBUF (10_state.md R44). -/
def State.streamBit (s : State) (i : Nat) : Bool :=
  (s.readByte (bitbufWindow.base + i / 8)).getLsbD (7 - i % 8)

/-! ## Registers (10_state.md section 2) -/

/-- The registers by name. -/
inductive Reg where
  | id | cmd | status | level | version | mode | textLen | bitLen | ecLen | finalLen | gfA | gfB
  | gfR | genDeg | genLen | fieldVal | fieldW | capTotal | capData | capEc | capBlocks | capChars
  | side
  deriving DecidableEq, Repr

/-- The register at a word-aligned offset; 0x05C..0x0FC are reserved (10_state.md R21 to R39, R41). -/
def regAt (off : Nat) : Option Reg :=
  match off with
  | 0x000 => some .id
  | 0x004 => some .cmd
  | 0x008 => some .status
  | 0x00C => some .level
  | 0x010 => some .version
  | 0x014 => some .mode
  | 0x018 => some .textLen
  | 0x01C => some .bitLen
  | 0x020 => some .ecLen
  | 0x024 => some .finalLen
  | 0x028 => some .gfA
  | 0x02C => some .gfB
  | 0x030 => some .gfR
  | 0x034 => some .genDeg
  | 0x038 => some .genLen
  | 0x03C => some .fieldVal
  | 0x040 => some .fieldW
  | 0x044 => some .capTotal
  | 0x048 => some .capData
  | 0x04C => some .capEc
  | 0x050 => some .capBlocks
  | 0x054 => some .capChars
  | 0x058 => some .side
  | _ => none

/-- STATUS.BUSY: 1 exactly while a command is pending (10_state.md R50; log 9). -/
def State.busy (s : State) : Bool := s.pending.isSome

/-- The STATUS word (10_state.md R23): BUSY [0], DONE [1], ERR [2], HAZ [3], ERRCODE [11:8], the
other bits 0. -/
def State.statusWord (s : State) : Word :=
  (BitVec.ofBool s.busy).setWidth 32 ||| ((BitVec.ofBool s.done).setWidth 32 <<< 1) |||
    ((BitVec.ofBool s.err).setWidth 32 <<< 2) ||| ((BitVec.ofBool s.haz).setWidth 32 <<< 3) |||
    (s.errCode.setWidth 32 <<< 8)

/-- What a read of the register gives while BUSY = 0: the field zero-extended; CMD reads 0, ID is
constant (10_state.md R21, R22, R40). -/
def State.readReg (s : State) : Reg → Word
  | .id => Config.idValue
  | .cmd => 0
  | .status => s.statusWord
  | .level => s.level.setWidth 32
  | .version => s.version.setWidth 32
  | .mode => s.mode.setWidth 32
  | .textLen => s.textLen.setWidth 32
  | .bitLen => s.bitLen.setWidth 32
  | .ecLen => s.ecLen.setWidth 32
  | .finalLen => s.finalLen.setWidth 32
  | .gfA => s.gfA.setWidth 32
  | .gfB => s.gfB.setWidth 32
  | .gfR => s.gfR.setWidth 32
  | .genDeg => s.genDeg.setWidth 32
  | .genLen => s.genLen.setWidth 32
  | .fieldVal => s.fieldVal.setWidth 32
  | .fieldW => s.fieldW.setWidth 32
  | .capTotal => s.capTotal.setWidth 32
  | .capData => s.capData.setWidth 32
  | .capEc => s.capEc.setWidth 32
  | .capBlocks => s.capBlocks.setWidth 32
  | .capChars => s.capChars.setWidth 32
  | .side => s.side.setWidth 32

/-- Acceptance of a command word (60_exceptions.md R264): BUSY rises, DONE, ERR and ERRCODE clear,
HAZ stays. -/
def State.accept (s : State) (w : Word) : State :=
  { s with pending := some w, done := false, err := false, errCode := 0 }

/-- A host write to a register while BUSY = 0: an RW register stores the bits of its field
(10_state.md R40), CMD accepts a command (R22), STATUS clears HAZ if bit 3 is 1 (R23), an RO
register ignores the write (R41). -/
def State.writeReg (s : State) (r : Reg) (v : Word) : State :=
  match r with
  | .cmd => s.accept v
  | .status => if v.getLsbD 3 then { s with haz := false } else s
  | .level => { s with level := v.setWidth 2 }
  | .version => { s with version := v.setWidth 6 }
  | .mode => { s with mode := v.setWidth 4 }
  | .textLen => { s with textLen := v.setWidth 9 }
  | .bitLen => { s with bitLen := v.setWidth 12 }
  | .ecLen => { s with ecLen := v.setWidth 6 }
  | .finalLen => { s with finalLen := v.setWidth 10 }
  | .gfA => { s with gfA := v.setWidth 8 }
  | .gfB => { s with gfB := v.setWidth 8 }
  | .genDeg => { s with genDeg := v.setWidth 6 }
  | .id => s
  | .gfR => s
  | .genLen => s
  | .fieldVal => s
  | .fieldW => s
  | .capTotal => s
  | .capData => s
  | .capEc => s
  | .capBlocks => s
  | .capChars => s
  | .side => s

/-- Every register at its SOFT_RESET value, 0 for all but ID, and HAZ cleared; the buffers stay
(10_state.md R53, 44_control.md R241). -/
def State.clearRegs (s : State) : State :=
  { s with
    pending := none, done := false, err := false, haz := false, errCode := 0,
    level := 0, version := 0, mode := 0, textLen := 0, bitLen := 0, ecLen := 0, finalLen := 0,
    gfA := 0, gfB := 0, gfR := 0, genDeg := 0, genLen := 0, fieldVal := 0, fieldW := 0,
    capTotal := 0, capData := 0, capEc := 0, capBlocks := 0, capChars := 0, side := 0 }

/-- The hardware-reset column of 10_state.md R53 (70_reset_and_hazards.md R290, R291): registers 0,
the pending command discarded, the buffers unspecified anew. The outside world's own fields stay. -/
def State.hardwareReset (s : State) : State :=
  { s.clearRegs with mem := [], epoch := s.epoch + 1 }

/-! ## Completion (60_exceptions.md R264) -/

/-- The number of an error in STATUS.ERRCODE (60_exceptions.md R261). -/
def ErrCode.code : ErrCode → BitVec 4
  | .invalidArgument => 1
  | .notImplemented => 2
  | .outOfRange => 3
  | .notFound => 4
  | .illegalCommand => 5

/-- STATUS at completion: BUSY falls, DONE rises, ERR and ERRCODE say how the command ended; HAZ
stays (60_exceptions.md R264). -/
def State.finish (s : State) (e : Option ErrCode) : State :=
  { s with
    pending := none, done := true, err := e.isSome,
    errCode := match e with
      | none => 0
      | some c => c.code }

/-- The Engine step of a command whose rule computed r in state s (60_exceptions.md R264): on
success all its writes at once, on an error nothing but STATUS (R263). -/
def complete (s : State) (r : Except ErrCode State) : Host.Outcome State Fault Refusal :=
  match r with
  | .ok t => .next (t.finish none)
  | .error e => .next (s.finish (some e))

end Sys2Proof.Machine
end

