-- ==== Sys2Proof/Machine/Bus.lean ====
section
/-! DEFINITION. The host's bus accesses and the reset input (20_memory.md, 70_reset_and_hazards.md). -/

namespace Sys2Proof.Machine

/-- The byte address of the word an access reaches: bits [1:0] are ignored (20_memory.md R60). -/
def wordAddress (a : Addr) : Nat := a.toNat / 4 * 4

/-- Four bytes as a bus word, the lowest address in bits [7:0] (20_memory.md R62). -/
def packWord (b0 b1 b2 b3 : Byte) : Word := b3 ++ b2 ++ b1 ++ b0

/-- The four bytes of a bus word, lowest address first (20_memory.md R62). -/
def unpackWord (w : Word) : List Byte :=
  [w.extractLsb' 0 8, w.extractLsb' 8 8, w.extractLsb' 16 8, w.extractLsb' 24 8]

/-- What a read of the word at address a gives while BUSY = 0: a register, four buffer bytes, or 0 at
a reserved address (20_memory.md R61, R62). -/
def State.readWord (s : State) (a : Nat) : Word :=
  match regAt a with
  | some r => s.readReg r
  | none =>
    if (windowAt a).isSome then
      packWord (s.readByte a) (s.readByte (a + 1)) (s.readByte (a + 2)) (s.readByte (a + 3))
    else 0

/-- The effect of a write to the word at address a while BUSY = 0: a register write, four bytes of an
RW buffer, nothing at an RO buffer or a reserved address (20_memory.md R61, R62). -/
def State.writeWord (s : State) (a : Nat) (v : Word) : State :=
  match regAt a with
  | some r => s.writeReg r v
  | none =>
    match windowAt a with
    | some w => if w.hostWritable then s.storeBytes a (unpackWord v) else s
    | none => s

/-- The block answers a read. -/
def State.reply (s : State) (v : Word) : State := { s with replies := s.replies ++ [v] }

/-- The block answers a read whose value the spec leaves open: a fresh free value
(93_implementation_defined.md I1, I2; log 4, log 5). -/
def State.replyUnspecified (s : State) : State :=
  { s.reply (Config.unspecifiedRead s.draws) with draws := s.draws + 1 }

/-- A bus read. While reset is asserted its value is unspecified (70_reset_and_hazards.md R290); in a
BUSY window STATUS and ID are exact and every other value is unspecified (R302); otherwise it is the
word's content. A read changes nothing in the block (20_memory.md R66). -/
def busRead (s : State) (a : Addr) : State :=
  let k := wordAddress a
  if s.resetIn then s.replyUnspecified
  else if s.busy then
    match regAt k with
    | some .status => s.reply s.statusWord
    | some .id => s.reply Config.idValue
    | _ => s.replyUnspecified
  else s.reply (s.readWord k)

/-- A bus write. While reset is asserted it has no effect (70_reset_and_hazards.md R290); in a BUSY
window it is dropped and sets HAZ, whatever its address (R301). -/
def busWrite (s : State) (a : Addr) (v : Word) : State :=
  if s.resetIn then s
  else if s.busy then { s with haz := true }
  else s.writeWord (wordAddress a) v

/-- The reset input changes: while it is asserted and when it is released the state is the
hardware-reset state (70_reset_and_hazards.md R290; log 6). -/
def setResetPin (s : State) (asserted : Bool) : State :=
  { s.hardwareReset with resetIn := asserted }

/-- One event of the outside world. -/
def busStep (s : State) (op : BusOp) : State :=
  match op with
  | .read a => busRead s a
  | .write a v => busWrite s a v
  | .resetPin asserted => setResetPin s asserted

end Sys2Proof.Machine
end

