-- ==== Sys2Proof/Machine/BitString.lean ====
section
/-! DEFINITION. Bit strings, written left to right, first bit first (00_scope.md R8), and their packing
into codewords (10_state.md R44). -/

namespace Sys2Proof.Machine

/-- A bit string (00_scope.md R8). -/
abbrev Bits := List Bool

/-- The length of the binary numeral of v; the numeral of 0 has one digit (00_scope.md R8). -/
def bitlen (v : Nat) : Nat := if v = 0 then 1 else Nat.log2 v + 1

/-- bin_w(v): the binary numeral of v, most significant bit first, left-padded with zeros to w bits,
never truncated (00_scope.md R8). -/
def bin (w v : Nat) : Bits :=
  let n := max w (bitlen v)
  (List.range n).map (fun i => v.testBit (n - 1 - i))

/-- zeros(k) (00_scope.md R8). -/
def zeros (k : Nat) : Bits := List.replicate k false

/-- The byte whose bits are the first eight of s, first bit most significant; missing bits are 0
(10_state.md R44, 41_bitstream.md R155). -/
def byteOfBits (s : Bits) : Byte :=
  BitVec.ofNat 8 ((List.range 8).foldl (fun acc i => 2 * acc + (s.getD i false).toNat) 0)

/-- The first n bytes of a bit string. -/
def packBytes : Nat → Bits → List Byte
  | 0, _ => []
  | n + 1, s => byteOfBits (s.take 8) :: packBytes n (s.drop 8)

/-- The bytes of a bit string, the rest of the last byte 0 (41_bitstream.md R155). -/
def packBits (s : Bits) : List Byte := packBytes ((s.length + 7) / 8) s

/-- bin_8 of a byte: its eight bits, most significant first (00_scope.md R8). -/
def bin8 (b : Byte) : Bits := (List.range 8).map (fun i => b.getLsbD (7 - i))

/-- bin_8 of each byte in turn: the bit string of a codeword sequence (43_matrix.md R217). -/
def bitsOfBytes (bs : List Byte) : Bits := bs.flatMap bin8

/-- Write a bit string into BITBUF and its length into BIT_LEN; bytes of BITBUF past the last written
one keep their values (41_bitstream.md R155). -/
def State.writeBitbuf (s : State) (bits : Bits) : State :=
  { s.storeBytes bitbufWindow.base (packBits bits) with bitLen := BitVec.ofNat 12 bits.length }

end Sys2Proof.Machine
end

