-- ==== Sys2Proof/Machine/Flags.lean ====
section
/-! DEFINITION. The flags. The block's only flags are in STATUS (10_state.md R51): this file names the
STATUS words a completed command can leave and the legal combinations (R23); setting them is
`State.accept` and `State.finish` in Ops.lean, since no command has a flag of its own. -/

namespace Sys2Proof.Machine

/-- The legal combinations of STATUS (10_state.md R23): BUSY = 1 implies DONE = 0, ERR = 0 and
ERRCODE = 0; ERR = 0 iff ERRCODE = 0; codes 6..15 are never written (60_exceptions.md R261); ERR = 1
only after a completion. -/
def State.statusLegal (s : State) : Bool :=
  (!s.busy || (!s.done && !s.err && s.errCode == 0)) &&
    (s.err == (s.errCode != 0)) && s.errCode.toNat ≤ 5 && (!s.err || s.done)

/-- The STATUS word of a completed command whose error code is c and whose sticky HAZ flag is h: DONE,
ERR if c is not 0, HAZ, ERRCODE (10_state.md R23, 60_exceptions.md R264). -/
def completedStatus (c : Nat) (h : Bool) : Word :=
  BitVec.ofNat 32 (2 + (if c = 0 then 0 else 4) + (if h then 8 else 0) + 256 * c)

end Sys2Proof.Machine
end

