-- ==== Sys2Proof/Machine/Operands.lean ====
section
/-! DEFINITION. The operands of the commands: levels, modes, the text, the codewords of BITBUF, ECBUF
and FINAL, each with the length check its rule makes (30_encoding.md R81, R84). -/

namespace Sys2Proof.Machine

/-- Error-correction levels (00_scope.md R11). -/
inductive Level where
  | L | M | Q | H
  deriving DecidableEq, Repr

/-- Encoding modes (00_scope.md R11). -/
inductive Mode where
  | numeric | alphanumeric | byte | kanji
  deriving DecidableEq, Repr

/-- LEVEL: 0 = L, 1 = M, 2 = Q, 3 = H (10_state.md R25). -/
def levelOf (v : BitVec 2) : Level :=
  match v.toNat with
  | 0 => .L
  | 1 => .M
  | 2 => .Q
  | _ => .H

/-- The MODE value of a mode is its indicator read as a number (10_state.md R27). -/
def modeCode : Mode → BitVec 4
  | .numeric => 1
  | .alphanumeric => 2
  | .byte => 4
  | .kanji => 8

/-- The mode a MODE value stands for, none for an unrecognised value (10_state.md R27). -/
def modeOf (v : BitVec 4) : Option Mode :=
  match v.toNat with
  | 1 => some .numeric
  | 2 => some .alphanumeric
  | 4 => some .byte
  | 8 => some .kanji
  | _ => none

/-- The text operand: TEXT[0 .. TEXT_LEN-1], InvalidArgument if TEXT_LEN > 256 (10_state.md R29). -/
def textOperand (s : State) : Except ErrCode (List Byte) :=
  if Config.textMax < s.textLen.toNat then .error .invalidArgument
  else .ok (s.readBytes textWindow.base s.textLen.toNat)

/-- The data codewords of BITBUF: InvalidArgument if BIT_LEN > 2048 or not a multiple of 8
(42_reed_solomon.md R186, R190). -/
def codewordOperand (s : State) : Except ErrCode (List Byte) :=
  if Config.bitbufBits < s.bitLen.toNat ∨ s.bitLen.toNat % 8 ≠ 0 then .error .invalidArgument
  else .ok (s.readBytes bitbufWindow.base (s.bitLen.toNat / 8))

/-- The EC codewords of ECBUF: InvalidArgument if EC_LEN > 32 (42_reed_solomon.md R190). -/
def ecOperand (s : State) : Except ErrCode (List Byte) :=
  if Config.ecbufBytes < s.ecLen.toNat then .error .invalidArgument
  else .ok (s.readBytes ecbufWindow.base s.ecLen.toNat)

/-- The final codewords of FINAL: InvalidArgument if FINAL_LEN > 512 (43_matrix.md R220). -/
def finalOperand (s : State) : Except ErrCode (List Byte) :=
  if Config.finalBytes < s.finalLen.toNat then .error .invalidArgument
  else .ok (s.readBytes finalWindow.base s.finalLen.toNat)

end Sys2Proof.Machine
end

