-- ==== Sys2Proof/Machine/Bitstream.lean ====
section
/-! DEFINITION. The capacity ROM, mode and version selection, and the bitstream encoder
(41_bitstream.md). -/

namespace Sys2Proof.Machine

/-! ## The capacity ROM -/

/-- One row of the capacity ROM (41_bitstream.md R131). -/
structure CapRow where
  total : Nat
  ec : Nat
  blocks : Nat
  numeric : Nat
  alphanumeric : Nat
  byte : Nat
  kanji : Nat
  deriving DecidableEq, Repr

/-- The column of a mode. -/
def CapRow.capacity (r : CapRow) : Mode → Nat
  | .numeric => r.numeric
  | .alphanumeric => r.alphanumeric
  | .byte => r.byte
  | .kanji => r.kanji

/-- CAP(v, l): present for versions 1..4 only (41_bitstream.md R130, R131). -/
def capRow (v : Nat) (l : Level) : Option CapRow :=
  match v, l with
  | 1, .L => some ⟨26, 7, 1, 41, 25, 17, 10⟩
  | 1, .M => some ⟨26, 10, 1, 34, 20, 14, 8⟩
  | 1, .Q => some ⟨26, 13, 1, 27, 16, 11, 7⟩
  | 1, .H => some ⟨26, 17, 1, 17, 10, 7, 4⟩
  | 2, .L => some ⟨44, 10, 1, 77, 47, 32, 20⟩
  | 2, .M => some ⟨44, 16, 1, 63, 38, 26, 16⟩
  | 2, .Q => some ⟨44, 22, 1, 48, 29, 20, 12⟩
  | 2, .H => some ⟨44, 28, 1, 34, 20, 14, 8⟩
  | 3, .L => some ⟨70, 15, 1, 127, 77, 53, 32⟩
  | 3, .M => some ⟨70, 26, 1, 101, 61, 42, 26⟩
  | 3, .Q => some ⟨70, 36, 2, 77, 47, 32, 20⟩
  | 3, .H => some ⟨70, 44, 2, 58, 35, 24, 15⟩
  | 4, .L => some ⟨100, 20, 1, 187, 114, 78, 48⟩
  | 4, .M => some ⟨100, 36, 2, 149, 90, 62, 38⟩
  | 4, .Q => some ⟨100, 52, 2, 111, 67, 46, 28⟩
  | 4, .H => some ⟨100, 64, 4, 82, 50, 34, 21⟩
  | _, _ => none

/-- dataCW(v, l): data codewords; 0 where the ROM has no row, which no rule asks for
(41_bitstream.md R133; log 14). -/
def dataCW (v : Nat) (l : Level) : Nat :=
  match capRow v l with
  | some r => r.total - r.ec
  | none => 0

/-- capBits(v, l): the total bit capacity (41_bitstream.md R133). -/
def capBits (v : Nat) (l : Level) : Nat := 8 * dataCW v l

/-- CAP_LOOKUP: NotFound for a version outside 1..4 or an unrecognised mode (41_bitstream.md R134). -/
def execCapLookup (s : State) : Host.Outcome State Fault Refusal :=
  complete s (match capRow s.version.toNat (levelOf s.level), modeOf s.mode with
    | some r, some m => .ok { s with
        capTotal := BitVec.ofNat 8 r.total
        capEc := BitVec.ofNat 7 r.ec
        capBlocks := BitVec.ofNat 3 r.blocks
        capData := BitVec.ofNat 8 (r.total - r.ec)
        capChars := BitVec.ofNat 8 (r.capacity m) }
    | _, _ => .error .notFound)

/-! ## Character classes -/

/-- A byte that is a decimal digit (41_bitstream.md R136). -/
def isDigit (b : Byte) : Bool := 0x30 ≤ b.toNat && b.toNat ≤ 0x39

/-- alnum(b): the value of a byte of the 45-symbol alphabet (41_bitstream.md R135). -/
def alnum (b : Byte) : Option Nat :=
  if isDigit b then some (b.toNat - 0x30)
  else if 0x41 ≤ b.toNat ∧ b.toNat ≤ 0x5A then some (b.toNat - 0x41 + 10)
  else match b.toNat with
    | 0x20 => some 36
    | 0x24 => some 37
    | 0x25 => some 38
    | 0x2A => some 39
    | 0x2B => some 40
    | 0x2D => some 41
    | 0x2E => some 42
    | 0x2F => some 43
    | 0x3A => some 44
    | _ => none

/-- A byte of the alphanumeric alphabet (41_bitstream.md R136). -/
def isAlnum (b : Byte) : Bool := (alnum b).isSome

/-! ## Mode and version selection -/

/-- selectMode(t) (41_bitstream.md R137). -/
def selectMode (t : List Byte) : Mode :=
  if t.all isDigit then .numeric else if t.all isAlnum then .alphanumeric else .byte

/-- The capacity of a version at a level in a mode exceeds n characters. -/
def holds (n : Nat) (l : Level) (m : Mode) (v : Nat) : Bool :=
  match capRow v l with
  | some r => n < r.capacity m
  | none => false

/-- smallestVersion(t, l): the least version whose capacity strictly exceeds the length
(41_bitstream.md R139). -/
def smallestVersion (t : List Byte) (l : Level) : Option Nat :=
  Config.capVersions.find? (holds t.length l (selectMode t))

/-- SELECT_MODE (41_bitstream.md R138). -/
def execSelectMode (s : State) : Host.Outcome State Fault Refusal :=
  complete s (match textOperand s with
    | .error e => .error e
    | .ok t => .ok { s with mode := modeCode (selectMode t) })

/-- SELECT_VERSION (41_bitstream.md R140). -/
def execSelectVersion (s : State) : Host.Outcome State Fault Refusal :=
  complete s (match textOperand s with
    | .error e => .error e
    | .ok t =>
      match smallestVersion t (levelOf s.level) with
      | none => .error .outOfRange
      | some v => .ok { s with mode := modeCode (selectMode t), version := BitVec.ofNat 6 v })

/-! ## Indicators -/

/-- countWidth(v, m) for v in 1..40 and the modes that have a count field (41_bitstream.md R142). -/
def countWidth (v : Nat) (m : Mode) : Option Nat :=
  if v = 0 ∨ Config.maxCountVersion < v then none
  else match m with
    | .numeric => some (if v ≤ 9 then 10 else if v ≤ 26 then 12 else 14)
    | .alphanumeric => some (if v ≤ 9 then 9 else if v ≤ 26 then 11 else 13)
    | .byte => some (if v ≤ 9 then 8 else 16)
    | .kanji => none

/-- MODE_IND: NotImplemented for Kanji, InvalidArgument for an unrecognised mode
(41_bitstream.md R141, R147). -/
def execModeInd (s : State) : Host.Outcome State Fault Refusal :=
  complete s (match modeOf s.mode with
    | some .kanji => .error .notImplemented
    | some m => .ok { s with fieldVal := (modeCode m).setWidth 16, fieldW := 4 }
    | none => .error .invalidArgument)

/-- COUNT_IND: InvalidArgument for the length, the mode and the version, then OutOfRange if the length
does not fit (41_bitstream.md R148). -/
def execCountInd (s : State) : Host.Outcome State Fault Refusal :=
  complete s (
    if Config.textMax < s.textLen.toNat then .error .invalidArgument
    else match modeOf s.mode with
      | none => .error .invalidArgument
      | some m =>
        match countWidth s.version.toNat m with
        | none => .error .invalidArgument
        | some w =>
          if 2 ^ w ≤ s.textLen.toNat then .error .outOfRange
          else .ok { s with fieldVal := s.textLen.setWidth 16, fieldW := BitVec.ofNat 5 w })

/-! ## Data bits -/

/-- The decimal value of a group of digits, leading zeros allowed (41_bitstream.md R143). -/
def decimalValue (grp : List Byte) : Nat :=
  grp.foldl (fun acc b => 10 * acc + (b.toNat - 0x30)) 0

/-- The field of one numeric group: at least 10 bits for values from 100, at least 4 below, never
truncated (41_bitstream.md R143). -/
def numericGroup (grp : List Byte) : Bits :=
  let val := decimalValue grp
  bin (if 100 ≤ val then 10 else 4) val

/-- numericBits(t): groups of three digits, the last of one to three (41_bitstream.md R143). -/
def numericBits : List Byte → Bits
  | [] => []
  | [a] => numericGroup [a]
  | [a, b] => numericGroup [a, b]
  | a :: b :: c :: rest => numericGroup [a, b, c] ++ numericBits rest

/-- The alphabet value of a byte in an alphanumeric text (41_bitstream.md R135; 0 outside the
alphabet, which an alphanumeric text never holds; log 14). -/
def alnumValue (b : Byte) : Nat := (alnum b).getD 0

/-- alnumBits(t): pairs in 11 bits, a trailing single in 6 (41_bitstream.md R144). -/
def alnumBits : List Byte → Bits
  | [] => []
  | [a] => bin 6 (alnumValue a)
  | a :: b :: rest => bin 11 (45 * alnumValue a + alnumValue b) ++ alnumBits rest

/-- byteBits(t): eight bits a byte, most significant first (41_bitstream.md R145). -/
def byteBits (t : List Byte) : Bits := bitsOfBytes t

/-- dataBits(t) by the selected mode; selection never gives Kanji (41_bitstream.md R137, R146). -/
def dataBits (t : List Byte) : Bits :=
  match selectMode t with
  | .numeric => numericBits t
  | .alphanumeric => alnumBits t
  | .byte => byteBits t
  | .kanji => []

/-- BUILD_BITSTREAM: the data bits only (41_bitstream.md R149). -/
def execBuildBitstream (s : State) : Host.Outcome State Fault Refusal :=
  complete s (match textOperand s with
    | .error e => .error e
    | .ok t => .ok ({ s with mode := modeCode (selectMode t) }.writeBitbuf (dataBits t)))

/-! ## The padded stream -/

/-- modeInd(m): the four indicator bits (41_bitstream.md R141). -/
def modeInd (m : Mode) : Bits := bin 4 (modeCode m).toNat

/-- The character-count field of a text of n bytes (41_bitstream.md R142, R153); a version or mode
without a count width has no field, which a padded stream never asks for (log 14). -/
def countField (v : Nat) (m : Mode) (n : Nat) : Bits :=
  match countWidth v m with
  | some w => bin w n
  | none => []

/-- term(s, c): up to four zeros, only as far as the capacity (41_bitstream.md R150). -/
def term (s : Bits) (c : Nat) : Bits := if s.length < c then zeros (min 4 (c - s.length)) else []

/-- align(s): zeros to the next byte boundary (41_bitstream.md R151). -/
def align (s : Bits) : Bits := zeros ((8 - s.length % 8) % 8)

/-- The first n of the bytes 0xEC, 0x11, 0xEC, ... as bits (41_bitstream.md R152). -/
def padBytes (n : Nat) : Bits :=
  (List.range n).flatMap (fun k => bin 8 (if k % 2 = 0 then 0xEC else 0x11))

/-- pad(s, c): pad codewords up to the capacity (41_bitstream.md R152). -/
def pad (s : Bits) (c : Nat) : Bits :=
  if s.length < c then padBytes ((c - s.length) / 8) else []

/-- padded(t, v, l) (41_bitstream.md R153). -/
def padded (t : List Byte) (v : Nat) (l : Level) : Bits :=
  let c := capBits v l
  let m := selectMode t
  let h := modeInd m ++ countField v m t.length ++ dataBits t
  let h1 := h ++ term h c
  let h2 := h1 ++ align h1
  h2 ++ pad h2 c

/-- BUILD_PADDED (41_bitstream.md R154). -/
def execBuildPadded (s : State) : Host.Outcome State Fault Refusal :=
  complete s (match textOperand s with
    | .error e => .error e
    | .ok t =>
      match smallestVersion t (levelOf s.level) with
      | none => .error .outOfRange
      | some v => .ok ({ s with mode := modeCode (selectMode t), version := BitVec.ofNat 6 v
                       }.writeBitbuf (padded t v (levelOf s.level))))

end Sys2Proof.Machine
end

