-- ==== Sys2Proof/Machine/ReedSolomon.lean ====
section
/-! DEFINITION. The generator polynomial, the polynomial divider and the final assembler
(42_reed_solomon.md). Polynomials are coefficient lists, leading term first. -/

namespace Sys2Proof.Machine

/-- ecCount(v, l); 0 where the ROM has no row, which no rule asks for (42_reed_solomon.md R180;
log 14). -/
def ecCount (v : Nat) (l : Level) : Nat :=
  match capRow v l with
  | some r => r.ec
  | none => 0

/-- A single-block configuration: blocks(v, l) = 1 (42_reed_solomon.md R180). -/
def singleBlock (v : Nat) (l : Level) : Bool :=
  match capRow v l with
  | some r => r.blocks == 1
  | none => false

/-- Term-by-term XOR of two polynomials aligned at their leading terms, the shorter one continued by
zeros (42_reed_solomon.md R185). -/
def xorTerms : List Byte → List Byte → List Byte
  | [], q => q
  | p, [] => p
  | x :: p, y :: q => (x ^^^ y) :: xorTerms p q

/-- α^i (40_gf256.md R101). -/
def alphaPower (i : Nat) : Byte := expRom (BitVec.ofNat 8 i)

/-- gen_e: the product of (x - α^i) for i < e, leading coefficient first (42_reed_solomon.md R181). -/
def genCoeffs : Nat → List Byte
  | 0 => [1]
  | e + 1 => xorTerms (genCoeffs e ++ [0]) (0 :: (genCoeffs e).map (gmul (alphaPower e)))

/-- A coefficient in alpha notation; every coefficient of gen_e for e in 1..32 is nonzero, so the 0
for a missing log is never used there (42_reed_solomon.md R181; log 13). -/
def alphaOf (c : Byte) : Byte := (logRom c).getD 0

/-- The generator polynomial in alpha notation (42_reed_solomon.md R183, R185). -/
def genAlpha (e : Nat) : List Byte := (genCoeffs e).map alphaOf

/-- GEN_POLY (42_reed_solomon.md R183). -/
def execGenPoly (s : State) : Host.Outcome State Fault Refusal :=
  complete s (
    let e := s.genDeg.toNat
    if e = 0 ∨ Config.genMaxDeg < e then .error .invalidArgument
    else .ok { s.storeBytes genbufWindow.base
                (genAlpha e ++ List.replicate (Config.genbufBytes - (e + 1)) 0) with
               genLen := BitVec.ofNat 6 (e + 1) })

/-- The product of the generator with the leading coefficient: the zero polynomial for a zero lead
(42_reed_solomon.md R185, R188). -/
def leadProduct (g : List Byte) (lead : Byte) : List Byte :=
  g.map (fun a => match logRom lead with
    | some x => expRom (mula x a)
    | none => 0)

/-- One iteration: XOR the product in and drop the leading term (42_reed_solomon.md R185). -/
def divideStep (g : List Byte) (w : List Byte) : List Byte :=
  (xorTerms w (leadProduct g (w.headD 0))).tail

/-- The iteration n times. -/
def divideLoop (g : List Byte) : Nat → List Byte → List Byte
  | 0, w => w
  | n + 1, w => divideLoop g n (divideStep g w)

/-- divide(d, e): e coefficients, highest degree first (42_reed_solomon.md R185). -/
def divide (d : List Byte) (e : Nat) : List Byte :=
  (divideLoop (genAlpha e) d.length d ++ List.replicate e 0).take e

/-- Store the EC codewords and their number; ECBUF bytes past them keep their values
(42_reed_solomon.md R186). -/
def State.writeEcbuf (s : State) (c : List Byte) : State :=
  { s.storeBytes ecbufWindow.base c with ecLen := BitVec.ofNat 6 c.length }

/-- Store the final codewords and their number; FINAL bytes past them keep their values
(42_reed_solomon.md R190). -/
def State.writeFinal (s : State) (f : List Byte) : State :=
  { s.storeBytes finalWindow.base f with finalLen := BitVec.ofNat 10 f.length }

/-- RS_ENCODE: InvalidArgument for BIT_LEN, NotFound for the version, NotImplemented for a
multi-block configuration (42_reed_solomon.md R186). -/
def execRsEncode (s : State) : Host.Outcome State Fault Refusal :=
  complete s (match codewordOperand s with
    | .error e => .error e
    | .ok d =>
      match capRow s.version.toNat (levelOf s.level) with
      | none => .error .notFound
      | some r => if r.blocks ≠ 1 then .error .notImplemented else .ok (s.writeEcbuf (divide d r.ec)))

/-- ASSEMBLE: the data codewords followed by the EC codewords (42_reed_solomon.md R190). -/
def execAssemble (s : State) : Host.Outcome State Fault Refusal :=
  complete s (match codewordOperand s with
    | .error e => .error e
    | .ok d =>
      match ecOperand s with
      | .error e => .error e
      | .ok c => .ok (s.writeFinal (d ++ c)))

end Sys2Proof.Machine
end

