-- ==== Sys2Proof/Machine/Matrix.lean ====
section
/-! DEFINITION. The qr_module_matrix_placer (43_matrix.md). Cells are (x, y) = (column, row), true is
dark. -/

namespace Sys2Proof.Machine

/-- side(v) = 4·v + 17 (43_matrix.md R210). -/
def sideOf (v : Nat) : Nat := 4 * v + 17

/-- F(dx, dy): dark but for the ring at distance 2 from the centre (43_matrix.md R211). -/
def finder (dx dy : Nat) : Bool :=
  max (max (dx - 3) (3 - dx)) (max (dy - 3) (3 - dy)) != 2

/-- The value of the finder pattern whose top-left cell is (ox, oy) at (x, y), none outside its
7 × 7 block (43_matrix.md R212). -/
def finderAt (ox oy x y : Nat) : Option Bool :=
  if ox ≤ x && x ≤ ox + 6 && oy ≤ y && y ≤ oy + 6 then some (finder (x - ox) (y - oy)) else none

/-- The separator cells of the three finders (43_matrix.md R213). -/
def isSeparator (side x y : Nat) : Bool :=
  (x == 7 && y ≤ 7) || (y == 7 && x ≤ 7) ||
  (x == side - 8 && y ≤ 7) || (y == 7 && side - 8 ≤ x && x < side) ||
  (x == 7 && side - 8 ≤ y && y < side) || (y == side - 8 && x ≤ 7)

/-- The timing cells (43_matrix.md R214). -/
def isTiming (side x y : Nat) : Bool :=
  (y == 6 && 8 ≤ x && x ≤ side - 9) || (x == 6 && 8 ≤ y && y ≤ side - 9)

/-- The pattern value of a reserved cell, none for an available cell (43_matrix.md R211 to R215). -/
def patternAt (side x y : Nat) : Option Bool :=
  match finderAt 0 0 x y, finderAt (side - 7) 0 x y, finderAt 0 (side - 7) x y with
  | some b, _, _ => some b
  | none, some b, _ => some b
  | none, none, some b => some b
  | none, none, none =>
    if isSeparator side x y then some false
    else if isTiming side x y then some ((if y = 6 then x else y) % 2 == 0)
    else none

/-- The available cells of a column pair, right cell first, upward or downward
(43_matrix.md R216). -/
def pairCells (side right : Nat) (up : Bool) : List (Nat × Nat) :=
  let ys := List.range side
  ((if up then ys.reverse else ys).flatMap (fun y => [(right, y), (right - 1, y)])).filter
    (fun c => (patternAt side c.1 c.2).isNone)

/-- The column pairs from `right` leftward, at most `fuel` of them; the pair never straddles column 6
(43_matrix.md R216). -/
def zigzag (side : Nat) : Nat → Nat → Bool → List (Nat × Nat)
  | 0, _, _ => []
  | fuel + 1, right, up =>
    if right < 1 then []
    else
      let r := if right = 6 then 5 else right
      pairCells side r up ++ zigzag side fuel (r - 2) (!up)

/-- order(side): the available cells in placement order (43_matrix.md R216). Each pair takes two
columns, so `side` pairs are more than enough. -/
def placementOrder (side : Nat) : List (Nat × Nat) := zigzag side side (side - 1) true

/-- The dark reserved cells. -/
def patternDark (side : Nat) : List (Nat × Nat) :=
  ((List.range side).flatMap (fun y => (List.range side).map (fun x => (x, y)))).filter
    (fun c => patternAt side c.1 c.2 == some true)

/-- The dark data cells: bit i of the codewords goes to cell i of the order, a 1 is dark, cells not
reached stay light (43_matrix.md R217, R218). -/
def dataDark (order : List (Nat × Nat)) (bits : Bits) : List (Nat × Nat) :=
  ((order.zip bits).filter (·.2)).map (·.1)

/-- The row word whose bit x is 1 iff (x, y) is among the dark cells (10_state.md R48). -/
def rowWord (dark : List (Nat × Nat)) (y : Nat) : Nat :=
  (dark.filter (fun c => c.2 == y)).foldl (fun w c => w ||| 1 <<< c.1) 0

/-- The bytes of the matrix store for a set of dark cells: 33 rows of two little-endian words
(10_state.md R48, 20_memory.md R62). Every other cell is light (43_matrix.md R220). -/
def matrixBytes (dark : List (Nat × Nat)) : List Byte :=
  (List.range Config.storeSide).flatMap (fun y =>
    let w := rowWord dark y
    (List.range 8).map (fun j => BitVec.ofNat 8 (w >>> (8 * j))))

/-- Write the matrix of version v for a bit string, and its side (43_matrix.md R220). -/
def State.writeMatrix (s : State) (v : Nat) (bits : Bits) : State :=
  let side := sideOf v
  { s.storeBytes matrixWindow.base
      (matrixBytes (patternDark side ++ dataDark (placementOrder side) bits)) with
    side := BitVec.ofNat 8 side }

/-- PLACE_MATRIX: InvalidArgument for FINAL_LEN, OutOfRange for the version, OutOfRange for too many
bits (43_matrix.md R220). -/
def execPlaceMatrix (s : State) : Host.Outcome State Fault Refusal :=
  complete s (match finalOperand s with
    | .error e => .error e
    | .ok f =>
      let v := s.version.toNat
      if v = 0 ∨ Config.maxMatrixVersion < v then .error .outOfRange
      else if (placementOrder (sideOf v)).length < (bitsOfBytes f).length then .error .outOfRange
      else .ok (s.writeMatrix v (bitsOfBytes f)))

end Sys2Proof.Machine
end

