-- ==== Sys2Proof/Machine/Control.lean ====
section
/-! DEFINITION. NOP, SOFT_RESET and the whole pipeline ENCODE (44_control.md). -/

namespace Sys2Proof.Machine

/-- NOP (44_control.md R240). -/
def execNop (s : State) : Host.Outcome State Fault Refusal := complete s (.ok s)

/-- SOFT_RESET: the registers reset and HAZ cleared, the buffers kept; the completion then sets DONE
(44_control.md R241, 60_exceptions.md R264). -/
def execSoftReset (s : State) : Host.Outcome State Fault Refusal := complete s (.ok s.clearRegs)

/-- ENCODE: selection, padding, division, assembly and placement in one step; InvalidArgument, then
OutOfRange, then NotImplemented, nothing written on an error (44_control.md R242). -/
def execEncode (s : State) : Host.Outcome State Fault Refusal :=
  complete s (match textOperand s with
    | .error e => .error e
    | .ok t =>
      let l := levelOf s.level
      match smallestVersion t l with
      | none => .error .outOfRange
      | some v =>
        if singleBlock v l then
          let bits := padded t v l
          let d := packBits bits
          let c := divide d (ecCount v l)
          .ok (((({ s with mode := modeCode (selectMode t), version := BitVec.ofNat 6 v
                  }.writeBitbuf bits).writeEcbuf c).writeFinal (d ++ c)).writeMatrix v
                (bitsOfBytes (d ++ c)))
        else .error .notImplemented)

end Sys2Proof.Machine
end

