-- ==== Sys2Proof/Machine/Dispatch.lean ====
section
/-! DEFINITION. The Engine step of each command, one arm per constructor (60_exceptions.md R264). -/

namespace Sys2Proof.Machine

def exec (i : Instr) (s : State) : Host.Outcome State Fault Refusal :=
  match i with
  | .nop => Sys2Proof.Machine.execNop s
  | .selectMode => Sys2Proof.Machine.execSelectMode s
  | .selectVersion => Sys2Proof.Machine.execSelectVersion s
  | .capLookup => Sys2Proof.Machine.execCapLookup s
  | .modeInd => Sys2Proof.Machine.execModeInd s
  | .countInd => Sys2Proof.Machine.execCountInd s
  | .buildBitstream => Sys2Proof.Machine.execBuildBitstream s
  | .buildPadded => Sys2Proof.Machine.execBuildPadded s
  | .gfLog => Sys2Proof.Machine.execGfLog s
  | .gfExp => Sys2Proof.Machine.execGfExp s
  | .gfMula => Sys2Proof.Machine.execGfMula s
  | .gfXor => Sys2Proof.Machine.execGfXor s
  | .gfMul => Sys2Proof.Machine.execGfMul s
  | .genPoly => Sys2Proof.Machine.execGenPoly s
  | .rsEncode => Sys2Proof.Machine.execRsEncode s
  | .assemble => Sys2Proof.Machine.execAssemble s
  | .placeMatrix => Sys2Proof.Machine.execPlaceMatrix s
  | .encode => Sys2Proof.Machine.execEncode s
  | .softReset => Sys2Proof.Machine.execSoftReset s

end Sys2Proof.Machine
end

