-- ==== Sys2Proof/Machine/Agents.lean ====
section
/-! DEFINITION. The two agents, the Host and the Engine, and which of them moves next
(00_scope.md R12, 60_exceptions.md R264, R266). -/

namespace Sys2Proof.Machine

/-- The Engine step for an accepted word: the command's rule, or IllegalCommand for an illegal word
(30_encoding.md R82, 60_exceptions.md R264). -/
def engineStep (s : State) (w : Word) : Host.Outcome State Fault Refusal :=
  match decode w with
  | .command i => exec i s
  | .illegal _ => complete s (.error .illegalCommand)

/-- Who moves next. -/
inductive Turn where
  /-- the Engine completes the accepted word -/
  | engine (w : Word)
  /-- the outside world's next event, then the rest -/
  | host (op : BusOp) (rest : List BusEvent)
  /-- neither: no command is pending and the outside world does nothing more -/
  | idle
  deriving DecidableEq, Repr

/-- The agent that moves next. The Engine is enabled exactly while a command is pending and reset is
not asserted; a coming event moves first if it is marked to fall in the BUSY window, and the Engine
moves once there is no such event (60_exceptions.md R264, R266, 70_reset_and_hazards.md R306; log 1).
-/
def State.turn (s : State) : Turn :=
  match (if s.resetIn then none else s.pending), s.inputs with
  | some w, [] => .engine w
  | some w, e :: rest => if e.inWindow then .host e.op rest else .engine w
  | none, e :: rest => .host e.op rest
  | none, [] => .idle

/-- The step of the agent that moves next; an idle block keeps its state (60_exceptions.md R280). -/
def agentStep (s : State) : Host.Outcome State Fault Refusal :=
  match s.turn with
  | .engine w => engineStep s w
  | .host op rest => .next (busStep { s with inputs := rest } op)
  | .idle => .next s

end Sys2Proof.Machine
end

