-- ==== Sys2Proof/Machine/Step.lean ====
section
/-! DEFINITION. The step of the machine, and how a command word is placed for it. -/

namespace Sys2Proof.Machine

/-- One step of the machine: the agent that moves next moves. -/
def step (s : State) : Host.Outcome State Fault Refusal := agentStep s

/-- The state in which the block has accepted the command word w and the Engine moves next: what the
host's write of w to CMD does (60_exceptions.md R264), with reset released and no coming event marked
for the BUSY window (log 2). -/
def State.withFetchWord (s : State) (nbits w : Nat) : State :=
  { s.accept (BitVec.ofNat 32 (w % 2 ^ nbits)) with
    resetIn := false
    inputs := s.inputs.map (fun e => { e with inWindow := false }) }

end Sys2Proof.Machine
end

