-- ==== Sys2Proof/Safety.lean ====
section
/-! DEFINITION. What a sound state is (the invariant), and the vocabulary the claims use: how a
command ended and what it left unchanged. -/

namespace Sys2Proof.Machine

/-! ## The invariant -/

/-- Every buffer byte from a on, n of them, as GEN_POLY leaves GENBUF for a degree: the coefficients in
alpha notation, then zeros (10_state.md R46). -/
def genbufImage (e : Nat) : List Byte :=
  genAlpha e ++ List.replicate (Config.genbufBytes - (e + 1)) 0

/-- MATRIX shows a symbol of the given side: cells outside the side are light (10_state.md R48) and
every reserved cell has its pattern value (43_matrix.md R215, R220). -/
def matrixShows (s : State) (side : Nat) : Prop :=
  ∀ x y, x < 33 → y < 33 →
    (side ≤ x ∨ side ≤ y → s.cell x y = false) ∧
    (x < side → y < side → ∀ b, patternAt side x y = some b → s.cell x y = b)

/-- The invariant every step keeps, from any state that meets it. -/
structure Inv (s : State) : Prop where
  /-- the buffers are in canonical form and list only buffer addresses (log 15) -/
  memory : s.mem.wf = true
  /-- STATUS is a legal combination (10_state.md R23) -/
  status : s.statusLegal = true
  /-- no command is pending while reset is asserted (70_reset_and_hazards.md R290) -/
  reset : s.resetIn = true → s.pending = none
  /-- the indicator field fits its width (10_state.md R37) -/
  field : s.fieldVal.toNat < 2 ^ s.fieldW.toNat
  /-- CAP_DATA = CAP_TOTAL - CAP_EC (10_state.md R38) -/
  capacity : s.capTotal.toNat = s.capData.toNat + s.capEc.toNat
  /-- GENBUF holds the generator polynomial GEN_LEN speaks of (10_state.md R36, R46) -/
  generator : s.genLen ≠ 0 →
    2 ≤ s.genLen.toNat ∧ s.genLen.toNat ≤ 33 ∧
      s.readBytes genbufWindow.base 64 = genbufImage (s.genLen.toNat - 1)
  /-- SIDE is 0 or the side of a version 1..4 (10_state.md R39) -/
  side : s.side = 0 ∨ s.side = 21 ∨ s.side = 25 ∨ s.side = 29 ∨ s.side = 33
  /-- MATRIX shows the symbol SIDE speaks of (10_state.md R48, 43_matrix.md R221) -/
  matrix : s.side ≠ 0 → matrixShows s s.side.toNat

/-! ## Vocabulary of the claims -/

/-- No command is pending and reset is released: host accesses are served normally. -/
abbrev Idle (s : State) : Prop := s.pending = none ∧ s.resetIn = false

/-- A BUSY window: a command is pending and reset is released. -/
abbrev Busy (s : State) : Prop := s.pending.isSome = true ∧ s.resetIn = false

/-- The fields that belong to the outside world and to the model's own counting are unchanged. -/
abbrev EnvKept (s t : State) : Prop :=
  t.resetIn = s.resetIn ∧ t.inputs = s.inputs ∧ t.replies = s.replies ∧ t.epoch = s.epoch ∧
    t.draws = s.draws

/-- The command that ran in s completed in t without an error: BUSY 0, DONE 1, ERR 0, ERRCODE 0, HAZ as
before, nothing of the outside world changed (60_exceptions.md R264). -/
abbrev Succeeds (s t : State) : Prop :=
  t.pending = none ∧ t.statusWord = completedStatus 0 s.haz ∧ EnvKept s t

/-- The command i in state s completes with error code c and changes nothing but STATUS
(60_exceptions.md R263, R264). -/
abbrev Fails (i : Instr) (s : State) (c : BitVec 4) : Prop :=
  exec i s = .next { s with pending := none, done := true, err := true, errCode := c }

/-- Every register but STATUS and the listed ones reads as before. -/
abbrev RegsKept (s t : State) (written : List Reg) : Prop :=
  ∀ r : Reg, r ≠ .status → r ∉ written → t.readReg r = s.readReg r

/-- Every byte outside the n bytes from address a on reads as before. -/
abbrev BytesKept (s t : State) (a n : Nat) : Prop :=
  ∀ k : Nat, ¬(a ≤ k ∧ k < a + n) → t.readByte k = s.readByte k

/-- Every byte reads as before. -/
abbrev AllBytesKept (s t : State) : Prop := ∀ k : Nat, t.readByte k = s.readByte k

/-- The bytes from address a on read as the list. -/
abbrev Holds (t : State) (a : Nat) (bs : List Byte) : Prop := t.readBytes a bs.length = bs

/-- MATRIX shows the symbol of a side for a bit string: light outside the side, the pattern value in a
reserved cell, bit i in cell i of the placement order, light where no bit reaches
(43_matrix.md R217, R218, R220). -/
def matrixHolds (t : State) (side : Nat) (bits : Bits) : Prop :=
  ∀ x y, x < 33 → y < 33 →
    t.cell x y =
      (if side ≤ x ∨ side ≤ y then false
       else match patternAt side x y with
         | some b => b
         | none => bits.getD ((placementOrder side).idxOf (x, y)) false)

/-- The registers a command writes on success, but for STATUS (30_encoding.md R84). -/
def writtenRegs : Instr → List Reg
  | .nop => []
  | .selectMode => [.mode]
  | .selectVersion => [.mode, .version]
  | .capLookup => [.capTotal, .capData, .capEc, .capBlocks, .capChars]
  | .modeInd => [.fieldVal, .fieldW]
  | .countInd => [.fieldVal, .fieldW]
  | .buildBitstream => [.mode, .bitLen]
  | .buildPadded => [.mode, .version, .bitLen]
  | .gfLog => [.gfR]
  | .gfExp => [.gfR]
  | .gfMula => [.gfR]
  | .gfXor => [.gfR]
  | .gfMul => [.gfR]
  | .genPoly => [.genLen]
  | .rsEncode => [.ecLen]
  | .assemble => [.finalLen]
  | .placeMatrix => [.side]
  | .encode => [.mode, .version, .bitLen, .ecLen, .finalLen, .side]
  | .softReset => [.level, .version, .mode, .textLen, .bitLen, .ecLen, .finalLen, .gfA, .gfB, .gfR,
      .genDeg, .genLen, .fieldVal, .fieldW, .capTotal, .capData, .capEc, .capBlocks, .capChars, .side]

/-- The buffers a command writes on success (30_encoding.md R84). -/
def writtenBuffers : Instr → List Window
  | .nop => []
  | .selectMode => []
  | .selectVersion => []
  | .capLookup => []
  | .modeInd => []
  | .countInd => []
  | .buildBitstream => [bitbufWindow]
  | .buildPadded => [bitbufWindow]
  | .gfLog => []
  | .gfExp => []
  | .gfMula => []
  | .gfXor => []
  | .gfMul => []
  | .genPoly => [genbufWindow]
  | .rsEncode => [ecbufWindow]
  | .assemble => [finalWindow]
  | .placeMatrix => [matrixWindow]
  | .encode => [bitbufWindow, ecbufWindow, finalWindow, matrixWindow]
  | .softReset => []

/-- The registers a command reads (30_encoding.md R84). -/
def readRegs : Instr → List Reg
  | .nop => []
  | .selectMode => [.textLen]
  | .selectVersion => [.textLen, .level]
  | .capLookup => [.version, .level, .mode]
  | .modeInd => [.mode]
  | .countInd => [.mode, .version, .textLen]
  | .buildBitstream => [.textLen]
  | .buildPadded => [.textLen, .level]
  | .gfLog => [.gfA]
  | .gfExp => [.gfA]
  | .gfMula => [.gfA, .gfB]
  | .gfXor => [.gfA, .gfB]
  | .gfMul => [.gfA, .gfB]
  | .genPoly => [.genDeg]
  | .rsEncode => [.bitLen, .version, .level]
  | .assemble => [.bitLen, .ecLen]
  | .placeMatrix => [.finalLen, .version]
  | .encode => [.textLen, .level]
  | .softReset => []

/-- The buffer bytes a command reads, as (first address, number): no byte at or past a length is read
(30_encoding.md R84, 10_state.md R42). -/
def readRanges (i : Instr) (s : State) : List (Nat × Nat) :=
  let text := [(textWindow.base, s.textLen.toNat)]
  let data := [(bitbufWindow.base, s.bitLen.toNat / 8)]
  match i with
  | .nop => []
  | .selectMode => text
  | .selectVersion => text
  | .capLookup => []
  | .modeInd => []
  | .countInd => []
  | .buildBitstream => text
  | .buildPadded => text
  | .gfLog => []
  | .gfExp => []
  | .gfMula => []
  | .gfXor => []
  | .gfMul => []
  | .genPoly => []
  | .rsEncode => data
  | .assemble => data ++ [(ecbufWindow.base, s.ecLen.toNat)]
  | .placeMatrix => [(finalWindow.base, s.finalLen.toNat)]
  | .encode => text
  | .softReset => []

/-- Two states hold the same operands for a command: the registers and the bytes it reads. -/
def SameOperands (i : Instr) (s u : State) : Prop :=
  (∀ r ∈ readRegs i, s.readReg r = u.readReg r) ∧
    ∀ p ∈ readRanges i s, ∀ k < p.2, s.readByte (p.1 + k) = u.readByte (p.1 + k)

/-! ## The spec's functions said a second time, for the claims about the model's -/

/-- Multiplication by x of a polynomial of degree below 8, reduced by 0x11D (40_gf256.md R101, R102). -/
def timesX (v : Nat) : Nat := if 2 * v ≥ 256 then (2 * v) ^^^ 0x11D else 2 * v

/-- α^a by the rule that builds the EXP ROM (40_gf256.md R101). -/
def alphaPow : Nat → Nat
  | 0 => 1
  | a + 1 => timesX (alphaPow a)

/-- Polynomial multiplication over GF(2) of a by the low n coefficients of b, reduced by 0x11D
(40_gf256.md R102). -/
def polyTimes (a : Nat) : Nat → Nat → Nat
  | 0, _ => 0
  | n + 1, b => timesX (polyTimes a n (b / 2)) ^^^ (if b % 2 = 1 then a else 0)

/-- The value of a polynomial, leading coefficient first, at a field element. -/
def polyEval (p : List Byte) (x : Byte) : Byte := p.foldl (fun acc c => gmul acc x ^^^ c) 0

/-- The sum of two polynomials aligned at their constant terms. -/
def polyAdd (p q : List Byte) : List Byte := (xorTerms p.reverse q.reverse).reverse

/-- The product of two polynomials, leading coefficient first. -/
def polyMul : List Byte → List Byte → List Byte
  | [], _ => []
  | a :: p, q => polyAdd (q.map (gmul a) ++ List.replicate p.length 0) (polyMul p q)

/-- Where a cell stands in the zig-zag traversal: the column pair from the right, then the row in the
pair's direction, then the right cell before the left (43_matrix.md R216). -/
def traversalKey (side : Nat) (c : Nat × Nat) : Nat :=
  let col := if c.1 < 6 then c.1 + 1 else c.1
  let p := (side - 1 - col) / 2
  let row := if p % 2 = 0 then side - 1 - c.2 else c.2
  (p * side + row) * 2 + (side - 1 - col) % 2

/-- The bit at index i of the padded stream of a header h at capacity c: the header, then zeros for the
terminator and the alignment, then pad codewords 0xEC, 0x11, ... (41_bitstream.md R150 to R153). -/
def paddedBit (h : Bits) (c i : Nat) : Bool :=
  let aligned := (h.length + min 4 (c - h.length) + 7) / 8 * 8
  if i < h.length then h.getD i false
  else if i < aligned then false
  else if (i / 8 - aligned / 8) % 2 = 0 then (0xEC : Nat).testBit (7 - i % 8)
  else (0x11 : Nat).testBit (7 - i % 8)

/-- The number a bit string is the numeral of, most significant bit first (00_scope.md R8). -/
def bitsValue (s : Bits) : Nat := s.foldl (fun acc b => 2 * acc + b.toNat) 0

/-- The text operand as a list. -/
abbrev textOf (s : State) : List Byte := s.readBytes textWindow.base s.textLen.toNat

/-- The capacity column of the ROM row, 0 for no row (41_bitstream.md R131). -/
def capacityOf (v : Nat) (l : Level) (m : Mode) : Nat :=
  match capRow v l with
  | some r => r.capacity m
  | none => 0

end Sys2Proof.Machine
end

