-- ==== Sys2Proof/Certificates/Slice0/Obligations.lean ====
section
/-! DEFINITION. The statements for the provers. Each docstring names the rule of spec/ it formalises,
or says on what it rests where it is derived. -/

open Sys2Proof Sys2Proof.Machine

/-! ## Encoding -/

/-- The command word of each row of the opcode map decodes to its command, and every other opcode is
unassigned and decodes as illegal (30_encoding.md R83). -/
def Obligations.CommandWordsDecodeToTheirCommands : Prop :=
  [decode 0x00#32, decode 0x01#32, decode 0x02#32, decode 0x03#32, decode 0x04#32, decode 0x05#32,
    decode 0x06#32, decode 0x07#32] =
    [.command .nop, .command .selectMode, .command .selectVersion, .command .capLookup,
     .command .modeInd, .command .countInd, .command .buildBitstream, .command .buildPadded] ∧
  [decode 0x10#32, decode 0x11#32, decode 0x12#32, decode 0x13#32, decode 0x14#32] =
    [.command .gfLog, .command .gfExp, .command .gfMula, .command .gfXor, .command .gfMul] ∧
  [decode 0x18#32, decode 0x19#32, decode 0x1A#32, decode 0x20#32, decode 0x30#32, decode 0xFF#32] =
    [.command .genPoly, .command .rsEncode, .command .assemble, .command .placeMatrix,
     .command .encode, .command .softReset] ∧
  ∀ n < 256, ((0x08 ≤ n ∧ n ≤ 0x0F) ∨ (0x15 ≤ n ∧ n ≤ 0x17) ∨ (0x1B ≤ n ∧ n ≤ 0x1F) ∨
    (0x21 ≤ n ∧ n ≤ 0x2F) ∨ (0x31 ≤ n ∧ n ≤ 0xFE)) →
    decode (BitVec.ofNat 32 n) = .illegal .unassignedOpcode

/-- Decoding and encoding agree on all words: a word decodes to a command exactly if it is that
command's word. Rests on the sections of 30_encoding.md that give the format and the map. -/
def Obligations.DecodeAgreesWithEncode : Prop :=
  ∀ (w : Word) (i : Instr), decode w = .command i ↔ w = encode i

/-- Every word is one of the 19 commands or illegal, an illegal one is accepted like any command and
completes with IllegalCommand and no other effect (30_encoding.md R82, R85). -/
def Obligations.EveryWordIsACommandOrIllegal : Prop :=
  (∀ w : Word, w.toNat / 256 = 0 → ∀ i, opcode i = w.toNat % 256 → decode w = .command i) ∧
  (∀ w : Word, (w.toNat / 256 ≠ 0 ∨ ∀ i, opcode i ≠ w.toNat % 256) →
    (∃ why, decode w = .illegal why) ∧ WellFormed.word w = false ∧
    (∀ s : State, engineStep s w =
      .next { s with pending := none, done := true, err := true, errCode := 5 })) ∧
  (∀ (w : Word) (s : State) (a : Addr), wordAddress a = 0x004 → Idle s →
    (busWrite s a w).pending = some w ∧ (busWrite s a w).busy = true)

/-! ## The step and the agents -/

/-- A step runs the accepted word: with any word w accepted, reset released and no coming event marked
for the BUSY window, the step is the Engine's step for w. For a word that decodes to a command it is
exec of that command and adds nothing around it; for an illegal word it is the IllegalCommand
completion. The word placed by withFetchWord is run so from every state. Which agent moves next is the
model's data (log 1). Rests on 60_exceptions.md section 2 and 30_encoding.md section 1. -/
def Obligations.StepRunsTheAcceptedCommand : Prop :=
  (∀ (s : State) (w : Word), s.pending = some w → s.resetIn = false →
    (∀ e rest, s.inputs = e :: rest → e.inWindow = false) →
    step s = engineStep s w ∧
    (∀ why, decode w = .illegal why →
      step s = .next { s with pending := none, done := true, err := true, errCode := 5 })) ∧
  (∀ (s : State) (w : Word) (i : Instr), s.pending = some w → decode w = .command i →
    s.resetIn = false → (∀ e rest, s.inputs = e :: rest → e.inWindow = false) →
    step s = exec i s) ∧
  (∀ (s : State) (i : Instr),
    step (s.withFetchWord 32 (encode i).toNat) = exec i (s.withFetchWord 32 (encode i).toNat)) ∧
  (∀ (s : State) (w : Word),
    step (s.withFetchWord 32 w.toNat) = engineStep (s.withFetchWord 32 w.toNat) w)

/-- Otherwise the step is one event of the outside world, and an idle block with no coming event keeps
its state. The order of events is the model's data (log 1). Rests on 60_exceptions.md section 2 and
70_reset_and_hazards.md section 3. -/
def Obligations.StepServesTheHost : Prop :=
  (∀ (s : State) (e : BusEvent) (rest : List BusEvent), s.inputs = e :: rest →
    (s.pending = none ∨ s.resetIn = true ∨ e.inWindow = true) →
    step s = .next (busStep { s with inputs := rest } e.op)) ∧
  (∀ s : State, s.inputs = [] → (s.pending = none ∨ s.resetIn = true) → step s = .next s)

/-- The life of a command: acceptance by a write to CMD (which reads 0) while BUSY = 0 and not in a BUSY
window, and a completion step that ends the BUSY window, sets DONE, ERR and ERRCODE, leaves the outside
world's fields alone and, on an error, writes nothing but STATUS, HAZ unchanged but by SOFT_RESET. The
Engine moves only while a command is pending, and then unless an event marked for the window comes
first: that schedule is the model's choice (log 1). Rests on 60_exceptions.md section 2 and the CMD
rule of 10_state.md section 2. -/
def Obligations.LifeOfACommand : Prop :=
  (∀ (s : State) (a : Addr) (w : Word), wordAddress a = 0x004 → Idle s →
    busWrite s a w = { s with pending := some w, done := false, err := false, errCode := 0 } ∧
    busRead s a = { s with replies := s.replies ++ [0] }) ∧
  (∀ (s : State) (a : Addr) (w : Word), wordAddress a = 0x004 → Busy s →
    busWrite s a w = { s with haz := true }) ∧
  (∀ (s : State) (w : Word), ∃ t, engineStep s w = .next t ∧ t.pending = none ∧ t.done = true ∧
    t.err = (t.errCode != 0) ∧ EnvKept s t ∧ t.haz = (s.haz && decode w != .command .softReset) ∧
    (t.err = true →
      t = { s with pending := none, done := true, err := true, errCode := t.errCode })) ∧
  (∀ (s : State) (w : Word) (i : Instr), decode w = .command i → engineStep s w = exec i s) ∧
  (∀ (s : State) (w : Word), s.turn = .engine w → s.pending = some w) ∧
  (∀ (s : State) (w : Word), s.pending = some w → s.resetIn = false →
    (∀ e rest, s.inputs = e :: rest → e.inWindow = false) → s.turn = .engine w)

/-- A pending command completes (or is discarded by a reset) within one step more than the outside world
has events left: latency is finite. That the coming events are a finite list is the model's choice
(log 1). Rests on 70_reset_and_hazards.md section 4. -/
def Obligations.PendingCommandEndsInFiniteTime : Prop :=
  ∀ s : State, s.resetIn = false → s.pending.isSome = true →
    ∃ k, k ≤ s.inputs.length + 1 ∧ ∃ t, core.run k s = .next t ∧ t.pending = none

/-- A command sees the state of its acceptance: whatever reads and writes the host makes in the BUSY
window, the command completes with the same error code, registers and buffer bytes as if the host had
made none. Rests on the sentence of 60_exceptions.md section 2 that exec reads nothing the host writes
after acceptance. -/
def Obligations.CommandSeesTheStateOfItsAcceptance : Prop :=
  ∀ (ops : List BusOp) (s : State) (i : Instr) (t : State), Busy s →
    (∀ op ∈ ops, ∀ b, op ≠ .resetPin b) → exec i s = .next t →
    ∃ u, exec i (ops.foldl busStep s) = .next u ∧ u.errCode = t.errCode ∧ u.err = t.err ∧
      RegsKept t u [] ∧ AllBytesKept t u

/-- An error is all or nothing: a command that ends with ERR = 1 has written no register and no buffer
byte other than STATUS (60_exceptions.md R263). -/
def Obligations.FailedCommandChangesOnlyStatus : Prop :=
  ∀ (i : Instr) (s t : State), exec i s = .next t → t.err = true →
    t = { s with pending := none, done := true, err := true, errCode := t.errCode } ∧
      t.errCode ≠ 0

/-- STATUS.DONE, ERR and ERRCODE keep the outcome of the last command until the next acceptance, the
next completion or a hardware reset; reading STATUS does not clear them and a write to STATUS clears
only HAZ (60_exceptions.md R268). -/
def Obligations.OutcomePersists : Prop :=
  (∀ s t : State, step s = .next t →
    (t.done ≠ s.done ∨ t.err ≠ s.err ∨ t.errCode ≠ s.errCode) →
    (∃ w, s.turn = .engine w) ∨ (∃ b rest, s.turn = .host (.resetPin b) rest) ∨
    (∃ a v rest, s.turn = .host (.write a v) rest ∧ wordAddress a = 0x004 ∧ Idle s)) ∧
  (∀ (s : State) (a : Addr) (v : Word), wordAddress a = 0x008 →
    (let t := busRead s a; t.done = s.done ∧ t.err = s.err ∧ t.errCode = s.errCode) ∧
    (let t := busWrite s a v; t.done = s.done ∧ t.err = s.err ∧ t.errCode = s.errCode))

/-- On success a command writes only the registers and buffers listed for it, and never a field of the
outside world; HAZ changes only by SOFT_RESET. Rests on the operand table of 30_encoding.md section 2.
-/
def Obligations.CommandWritesOnlyItsResults : Prop :=
  ∀ (i : Instr) (s t : State), exec i s = .next t →
    RegsKept s t (writtenRegs i) ∧ EnvKept s t ∧ (i ≠ .softReset → t.haz = s.haz) ∧
    ∀ a : Nat, (∀ w ∈ writtenBuffers i, w.covers a = false) → t.readByte a = s.readByte a

/-- A command's outcome depends only on the operands listed for it: two states that agree on the
registers and buffer bytes it reads give the same error code, the same values in the registers it
writes, and the same bytes wherever either run writes. Rests on the operand table of 30_encoding.md
section 2. -/
def Obligations.OutcomeDependsOnlyOnOperands : Prop :=
  ∀ (i : Instr) (s u t v : State), SameOperands i s u → exec i s = .next t → exec i u = .next v →
    t.err = v.err ∧ t.errCode = v.errCode ∧
    (t.err = false → (∀ r ∈ writtenRegs i, t.readReg r = v.readReg r) ∧
      ∀ a : Nat, t.readByte a = v.readByte a ∨
        (t.readByte a = s.readByte a ∧ v.readByte a = u.readByte a))

/-! ## The host bus -/

/-- STATUS (10_state.md R23): the layout of the word, that an idle read answers it, what a write does, and
that only legal combinations follow legal ones, from reset on. -/
def Obligations.StatusRegister : Prop :=
  (∀ (s : State) (n : Nat), s.statusWord.getLsbD n =
    (if n = 0 then s.pending.isSome else if n = 1 then s.done else if n = 2 then s.err
     else if n = 3 then s.haz else if 8 ≤ n ∧ n ≤ 11 then s.errCode.getLsbD (n - 8) else false)) ∧
  (∀ (s : State) (a : Addr) (v : Word), wordAddress a = 0x008 →
    (Idle s → busRead s a = { s with replies := s.replies ++ [s.statusWord] }) ∧
    (Idle s → busWrite s a v = { s with haz := if v.getLsbD 3 then false else s.haz }) ∧
    (Busy s → busWrite s a v = { s with haz := true })) ∧
  State.reset.statusLegal = true ∧
  (∀ s t : State, s.statusLegal = true → step s = .next t → t.statusLegal = true)

/-- The RW registers as 10_state.md R24 to R35 give them: the offset, the width of the field, the
register, its field's value in s, and s after a host write of v, which stores the field's bits of v. -/
def rwRegisters (s : State) (v : Word) : List (Nat × Nat × Reg × Nat × State) :=
  [(0x00C, 2, .level, s.level.toNat, { s with level := v.setWidth 2 }),
   (0x010, 6, .version, s.version.toNat, { s with version := v.setWidth 6 }),
   (0x014, 4, .mode, s.mode.toNat, { s with mode := v.setWidth 4 }),
   (0x018, 9, .textLen, s.textLen.toNat, { s with textLen := v.setWidth 9 }),
   (0x01C, 12, .bitLen, s.bitLen.toNat, { s with bitLen := v.setWidth 12 })] ++
  [(0x020, 6, .ecLen, s.ecLen.toNat, { s with ecLen := v.setWidth 6 }),
   (0x024, 10, .finalLen, s.finalLen.toNat, { s with finalLen := v.setWidth 10 }),
   (0x028, 8, .gfA, s.gfA.toNat, { s with gfA := v.setWidth 8 }),
   (0x02C, 8, .gfB, s.gfB.toNat, { s with gfB := v.setWidth 8 }),
   (0x034, 6, .genDeg, s.genDeg.toNat, { s with genDeg := v.setWidth 6 })]

/-- RW registers (10_state.md R40), each at its offset: a host write stores the bits inside the
register's own field, a read returns the field zero-extended, and the write changes nothing else. -/
def Obligations.RwRegisterStoresItsField : Prop :=
  ∀ (s : State) (a : Addr) (v : Word) (off n : Nat) (r : Reg) (x : Nat) (u : State),
    (off, n, r, x, u) ∈ rwRegisters s v → wordAddress a = off → Idle s →
    busWrite s a v = u ∧
    (let t := busWrite s a v
     (t.readWord off).toNat = v.toNat % 2 ^ n ∧ t.pending = none ∧ t.haz = s.haz ∧ EnvKept s t ∧
      (∀ k < 4096, k % 4 = 0 → k ≠ off → t.readWord k = s.readWord k) ∧ AllBytesKept s t) ∧
    (busRead s a = { s with replies := s.replies ++ [s.readWord off] }) ∧
    (s.readWord off).toNat = x ∧ s.readWord off = s.readReg r ∧ (s.readWord off).toNat < 2 ^ n

/-- The RO registers as 10_state.md R21 and R34 to R39 give them: the offset, the register, and the word a
read answers in s, its own field zero-extended. -/
def roRegisters (s : State) : List (Nat × Reg × Word) :=
  [(0x000, .id, 0x51520007#32), (0x030, .gfR, s.gfR.setWidth 32),
   (0x038, .genLen, s.genLen.setWidth 32), (0x03C, .fieldVal, s.fieldVal.setWidth 32),
   (0x040, .fieldW, s.fieldW.setWidth 32), (0x044, .capTotal, s.capTotal.setWidth 32)] ++
  [(0x048, .capData, s.capData.setWidth 32), (0x04C, .capEc, s.capEc.setWidth 32),
   (0x050, .capBlocks, s.capBlocks.setWidth 32), (0x054, .capChars, s.capChars.setWidth 32),
   (0x058, .side, s.side.setWidth 32)]

/-- RO registers and the reserved register offsets ignore writes, reserved offsets read 0, and in a BUSY
window the write sets HAZ (10_state.md R41). An idle read of an RO register answers its own field. -/
def Obligations.RoRegistersIgnoreWrites : Prop :=
  (∀ (s : State) (a : Addr) (v : Word) (off : Nat) (r : Reg) (x : Word),
    (off, r, x) ∈ roRegisters s → wordAddress a = off →
    (Idle s → busWrite s a v = s) ∧ (Busy s → busWrite s a v = { s with haz := true }) ∧
    (Idle s → busRead s a = { s with replies := s.replies ++ [x] }) ∧ s.readReg r = x) ∧
  (∀ (s : State) (a : Addr) (v : Word), 0x05C ≤ wordAddress a → wordAddress a ≤ 0x0FC →
    (Idle s → busWrite s a v = s) ∧ (Busy s → busWrite s a v = { s with haz := true }) ∧
    (Idle s → busRead s a = { s with replies := s.replies ++ [0] }))

/-- The ranges of the RW buffers in the address map (20_memory.md R61). -/
abbrev InRwBuffer (a : Nat) : Prop :=
  (0x100 ≤ a ∧ a ≤ 0x31F) ∨ (0x400 ≤ a ∧ a ≤ 0x5FF)

/-- The ranges of the RO buffers in the address map (20_memory.md R61). -/
abbrev InRoBuffer (a : Nat) : Prop :=
  (0x340 ≤ a ∧ a ≤ 0x37F) ∨ (0x800 ≤ a ∧ a ≤ 0x907)

/-- Buffers are packed little-endian (20_memory.md R62): a read packs four bytes, a write to an RW buffer
sets the four bytes of its word and nothing else. In MATRIX (10_state.md R48) row y is two words: bit x
of the first is cell (x, y), bit 0 of the second is cell (32, y) and its other bits read 0; host writes
are ignored, and after PLACE_MATRIX the cells outside the side are 0. -/
def Obligations.BufferWordsAreLittleEndian : Prop :=
  (∀ (s : State) (a : Addr), InRwBuffer (wordAddress a) ∨ InRoBuffer (wordAddress a) → Idle s →
    ∃ w : Word, busRead s a = { s with replies := s.replies ++ [w] } ∧
      w.toNat = (s.readByte (wordAddress a)).toNat + 256 * (s.readByte (wordAddress a + 1)).toNat +
        65536 * (s.readByte (wordAddress a + 2)).toNat +
        16777216 * (s.readByte (wordAddress a + 3)).toNat) ∧
  (∀ (s : State) (a : Addr) (v : Word), InRwBuffer (wordAddress a) → Idle s →
    let t := busWrite s a v
    (∀ i < 4, (t.readByte (wordAddress a + i)).toNat = v.toNat / 256 ^ i % 256) ∧
    BytesKept s t (wordAddress a) 4 ∧ RegsKept s t [] ∧ t.statusWord = s.statusWord ∧
    t.pending = none ∧ EnvKept s t) ∧
  (∀ (s : State) (a : Addr) (y : Nat), y ≤ 32 → Idle s →
    (wordAddress a = 0x800 + 8 * y →
      ∃ w : Word, busRead s a = { s with replies := s.replies ++ [w] } ∧
        ∀ x ≤ 31, w.getLsbD x = s.cell x y) ∧
    (wordAddress a = 0x804 + 8 * y →
      busRead s a = { s with replies := s.replies ++ [if s.cell 32 y then 1 else 0] })) ∧
  (∀ (s : State) (a : Addr) (v : Word), 0x800 ≤ wordAddress a → wordAddress a ≤ 0x907 → Idle s →
    busWrite s a v = s) ∧
  (∀ s t : State, exec .placeMatrix s = .next t → t.err = false → ∀ x y, x ≤ 32 → y ≤ 32 →
    t.side.toNat ≤ x ∨ t.side.toNat ≤ y → t.cell x y = false)

/-- The bus ignores address bits [1:0]: an access reaches the word at its address rounded down to a
multiple of 4. RO buffers ignore writes, and reserved addresses read 0 and
ignore writes. Rests on the first two rules of 20_memory.md section 1; that there are no sub-word
accesses is the shape of BusOp (log 16). -/
def Obligations.AddressMapAccesses : Prop :=
  (∀ a : Addr, wordAddress a = a.toNat - a.toNat % 4) ∧
  (∀ (s : State) (a b : Addr) (v : Word), a.extractLsb' 2 10 = b.extractLsb' 2 10 →
    busRead s a = busRead s b ∧ busWrite s a v = busWrite s b v) ∧
  (∀ (s : State) (a : Addr) (v : Word), Idle s →
    (InRoBuffer (wordAddress a) → busWrite s a v = s) ∧
    (0x05C ≤ wordAddress a → ¬InRwBuffer (wordAddress a) → ¬InRoBuffer (wordAddress a) →
      busWrite s a v = s ∧ busRead s a = { s with replies := s.replies ++ [0] }))

/-- Side effects (20_memory.md R66): a read has none, a write has one beyond storing only at CMD and
STATUS, and a write in a BUSY window only sets HAZ. -/
def Obligations.AccessSideEffects : Prop :=
  (∀ (s : State) (a : Addr), ∃ v d, busRead s a = { s with replies := s.replies ++ [v], draws := d } ∧
    (Idle s → v = s.readWord (wordAddress a) ∧ d = s.draws)) ∧
  (∀ (s : State) (a : Addr) (v : Word), Idle s → wordAddress a ≠ 0x004 → wordAddress a ≠ 0x008 →
    (busWrite s a v).statusWord = s.statusWord ∧ (busWrite s a v).pending = none ∧
    EnvKept s (busWrite s a v) ∧ BytesKept s (busWrite s a v) (wordAddress a) 4 ∧
    ∀ r, regAt (wordAddress a) ≠ some r → (busWrite s a v).readReg r = s.readReg r) ∧
  (∀ (s : State) (a : Addr) (v : Word), Busy s → busWrite s a v = { s with haz := true })

/-- The BUSY-window write hazard (70_reset_and_hazards.md R301): every write is dropped and sets HAZ;
HAZ stays 1 until a write to STATUS with bit 3 while BUSY = 0, the completion of SOFT_RESET or a
hardware reset; HAZ never changes the result of a command. -/
def Obligations.BusyWindowWrites : Prop :=
  (∀ (s : State) (a : Addr) (v : Word), Busy s → busWrite s a v = { s with haz := true }) ∧
  (∀ s t : State, step s = .next t → s.haz = true → t.haz = false →
    (∃ w, s.turn = .engine w ∧ decode w = .command .softReset) ∨
    (∃ b rest, s.turn = .host (.resetPin b) rest) ∨
    (∃ a v rest, s.turn = .host (.write a v) rest ∧ wordAddress a = 0x008 ∧ v.getLsbD 3 = true ∧
      Idle s)) ∧
  (∀ (i : Instr) (s t : State) (b : Bool), exec i s = .next t →
    exec i { s with haz := b } = .next { t with haz := if i = .softReset then false else b })

/-- Reads in a BUSY window (70_reset_and_hazards.md R302): STATUS and ID are exact, any other address
answers the free value of a fresh draw, and nothing else changes. The statement holds for every value
of the free values. -/
def Obligations.BusyWindowReads : Prop :=
  ∀ (s : State) (a : Addr), Busy s →
    (wordAddress a = 0x008 → busRead s a = { s with replies := s.replies ++ [s.statusWord] } ∧
      (s.statusLegal = true → s.statusWord.toNat = if s.haz then 9 else 1)) ∧
    (wordAddress a = 0x000 → busRead s a = { s with replies := s.replies ++ [0x51520007#32] }) ∧
    (wordAddress a ≠ 0x008 → wordAddress a ≠ 0x000 →
      busRead s a = { s with replies := s.replies ++ [Config.unspecifiedRead s.draws]
                             draws := s.draws + 1 })

/-! ## Reset -/

/-- Hardware reset: on assertion and on release every register is 0 but ID, STATUS is 0, the pending
command is discarded, no byte of a buffer keeps its value but by the new draw; while asserted, writes
have no effect and reads answer free values. The model's own here: the column applies at every change
event, a release with no assertion before it among them, and draws RAM anew each time (log 6); the free
values' form and counters (log 3, log 5, log 7); the cells MATRIX has (log 10). Rests on
70_reset_and_hazards.md section 1. -/
def Obligations.HardwareReset : Prop :=
  (∀ (s : State) (b : Bool), let t := busStep s (.resetPin b)
    t.pending = none ∧ t.statusWord = 0 ∧ t.readReg .id = 0x51520007#32 ∧ t.resetIn = b ∧
    (∀ r, r ≠ .id → t.readReg r = 0) ∧
    (∀ a, t.readByte a = Config.powerOnByte (s.epoch + 1) a &&& cellMask a)) ∧
  (∀ (s : State) (a : Addr) (v : Word), s.resetIn = true → busWrite s a v = s ∧
    busRead s a = { s with replies := s.replies ++ [Config.unspecifiedRead s.draws]
                           draws := s.draws + 1 })

/-- State.reset is the hardware-reset column: registers 0 but ID, idle, every buffer byte its free value.
The model's own fields there, no inputs, no replies and both counters 0, are the model's choice (log 2,
log 7). Rests on 10_state.md section 6. -/
def Obligations.ResetStateValues : Prop :=
  (∀ r, State.reset.readReg r = if r = .id then 0x51520007#32 else 0) ∧ Idle State.reset ∧
  (∀ a, State.reset.readByte a = Config.powerOnByte 0 a &&& cellMask a) ∧
  State.reset.epoch = 0 ∧ State.reset.draws = 0 ∧ State.reset.inputs = [] ∧ State.reset.replies = []

/-- The reset state meets the invariant. Rests on 10_state.md section 6. -/
def Obligations.ResetMeetsTheInvariant : Prop := Inv State.reset

/-- Every step keeps the invariant, from every state that meets it: canonical memory in buffer addresses
only, legal STATUS, nothing pending during reset, indicator and capacity results consistent, GENBUF the
generator GEN_LEN names, MATRIX the symbol SIDE names. Rests on 10_state.md section 2 and 3 and
43_matrix.md section 3; the canonical form is the model's choice (log 15). -/
def Obligations.StepKeepsTheInvariant : Prop :=
  ∀ s t : State, Inv s → step s = .next t → Inv t

/-! ## Control commands -/

/-- NOP (44_control.md R240). -/
def Obligations.NopOnlyCompletes : Prop :=
  decode 0x00000000#32 = .command .nop ∧ ∀ s : State,
    exec .nop s = .next { s with pending := none, done := true, err := false, errCode := 0 }

/-- SOFT_RESET (44_control.md R241): every register 0 but ID and STATUS, HAZ cleared, DONE set, the
buffers unchanged. -/
def Obligations.SoftResetClearsRegisters : Prop :=
  decode 0x000000FF#32 = .command .softReset ∧ ∀ s : State, ∃ t, exec .softReset s = .next t ∧
    t.pending = none ∧ t.readReg .status = 2 ∧ t.readReg .id = 0x51520007#32 ∧
    (∀ r, r ≠ .id → r ≠ .status → t.readReg r = 0) ∧ AllBytesKept s t ∧ EnvKept s t

/-! ## GF(256) -/

/-- GF_LOG (40_gf256.md R110). -/
def Obligations.GfLogGivesTheLogarithm : Prop :=
  decode 0x00000010#32 = .command .gfLog ∧ ∀ s : State,
    (s.gfA = 0 → Fails .gfLog s 2) ∧
    (s.gfA ≠ 0 → ∃ t, exec .gfLog s = .next t ∧ Succeeds s t ∧
      t.gfR.toNat < 255 ∧ alphaPow t.gfR.toNat = s.gfA.toNat ∧
      RegsKept s t [.gfR] ∧ AllBytesKept s t)

/-- GF_EXP (40_gf256.md R111). -/
def Obligations.GfExpGivesThePower : Prop :=
  decode 0x00000011#32 = .command .gfExp ∧ ∀ s : State, ∃ t, exec .gfExp s = .next t ∧ Succeeds s t ∧
    t.gfR.toNat = alphaPow s.gfA.toNat ∧ RegsKept s t [.gfR] ∧ AllBytesKept s t

/-- GF_MULA (40_gf256.md R112, R106). -/
def Obligations.GfMulaAddsExponents : Prop :=
  decode 0x00000012#32 = .command .gfMula ∧ ∀ s : State, ∃ t, exec .gfMula s = .next t ∧ Succeeds s t ∧
    t.gfR.toNat = (if s.gfA.toNat + s.gfB.toNat > 255 then (s.gfA.toNat + s.gfB.toNat) % 255
      else s.gfA.toNat + s.gfB.toNat) ∧
    RegsKept s t [.gfR] ∧ AllBytesKept s t

/-- GF_XOR (40_gf256.md R113). -/
def Obligations.GfXorAddsElements : Prop :=
  decode 0x00000013#32 = .command .gfXor ∧ ∀ s : State, ∃ t, exec .gfXor s = .next t ∧ Succeeds s t ∧
    t.gfR = s.gfA ^^^ s.gfB ∧ RegsKept s t [.gfR] ∧ AllBytesKept s t

/-- GF_MUL (40_gf256.md R114, R107): 0 for a zero factor, else the element whose logarithm is the sum of
the factors' logarithms. -/
def Obligations.GfMulMultipliesElements : Prop :=
  decode 0x00000014#32 = .command .gfMul ∧ ∀ s : State, ∃ t, exec .gfMul s = .next t ∧ Succeeds s t ∧
    (s.gfA = 0 ∨ s.gfB = 0 → t.gfR = 0) ∧
    (∀ x y, x < 255 → y < 255 → alphaPow x = s.gfA.toNat → alphaPow y = s.gfB.toNat →
      t.gfR.toNat = alphaPow (x + y)) ∧
    RegsKept s t [.gfR] ∧ AllBytesKept s t

/-- The field (40_gf256.md R102): addition, by GF_XOR, is exclusive or; the product of elements is
polynomial multiplication over GF(2) reduced modulo 0x11D; the generator element is 2. -/
def Obligations.ProductIsPolynomialMultiplication : Prop :=
  (∀ s t : State, exec .gfXor s = .next t → t.gfR = s.gfA ^^^ s.gfB) ∧
  (∀ a b : Byte, (gmul a b).toNat = polyTimes a.toNat 8 b.toNat) ∧ expRom 1 = 2

/-- The ROMs are exact inverses and turn exponent sums into products. An inference the spec marks as
derived, in 40_gf256.md section 3. -/
def Obligations.RomsAreExact : Prop :=
  (∀ a b : Byte, expRom (mula a b) = gmul (expRom a) (expRom b)) ∧
  (∀ v : Byte, v ≠ 0 → ∃ a, logRom v = some a ∧ a.toNat < 255 ∧ expRom a = v) ∧
  (∀ a : Byte, a.toNat < 255 → logRom (expRom a) = some a) ∧
  logRom (expRom 255) = some 0

/-- The field laws. An inference the spec marks as derived, in 40_gf256.md section 3. -/
def Obligations.FieldLaws : Prop :=
  (∀ a b : Byte, gmul a b = gmul b a) ∧ (∀ a b c : Byte, gmul (gmul a b) c = gmul a (gmul b c)) ∧
  (∀ a : Byte, gmul a 1 = a ∧ gmul a 0 = 0) ∧
  (∀ a b c : Byte, gmul a (b ^^^ c) = gmul a b ^^^ gmul a c) ∧
  (∀ a l : Byte, logRom a = some l → gmul a (expRom (255 - l)) = 1)

/-! ## Capacity ROM and selection -/

/-- The capacity ROM as the spec prints it: VERSION, LEVEL, total, EC, blocks, data codewords, data bits,
then the Numeric, Alphanumeric, Byte and Kanji capacities (41_bitstream.md R131). -/
def printedCapacities : List (List Nat) :=
  [[1, 0, 26, 7, 1, 19, 152, 41, 25, 17, 10],
   [1, 1, 26, 10, 1, 16, 128, 34, 20, 14, 8],
   [1, 2, 26, 13, 1, 13, 104, 27, 16, 11, 7],
   [1, 3, 26, 17, 1, 9, 72, 17, 10, 7, 4],
   [2, 0, 44, 10, 1, 34, 272, 77, 47, 32, 20],
   [2, 1, 44, 16, 1, 28, 224, 63, 38, 26, 16],
   [2, 2, 44, 22, 1, 22, 176, 48, 29, 20, 12],
   [2, 3, 44, 28, 1, 16, 128, 34, 20, 14, 8]] ++
  [[3, 0, 70, 15, 1, 55, 440, 127, 77, 53, 32],
   [3, 1, 70, 26, 1, 44, 352, 101, 61, 42, 26],
   [3, 2, 70, 36, 2, 34, 272, 77, 47, 32, 20],
   [3, 3, 70, 44, 2, 26, 208, 58, 35, 24, 15],
   [4, 0, 100, 20, 1, 80, 640, 187, 114, 78, 48],
   [4, 1, 100, 36, 2, 64, 512, 149, 90, 62, 38],
   [4, 2, 100, 52, 2, 48, 384, 111, 67, 46, 28],
   [4, 3, 100, 64, 4, 36, 288, 82, 50, 34, 21]]

/-- The column of the printed table for a MODE value (10_state.md R27). -/
def modeColumn : List (Nat × Nat) := [(1, 7), (2, 8), (4, 9), (8, 10)]

/-- CAP_LOOKUP (41_bitstream.md R134, with the figures of R131): the row's figures for versions 1..4 and
the four modes, NotFound otherwise. -/
def Obligations.CapLookupReadsTheTable : Prop :=
  decode 0x00000003#32 = .command .capLookup ∧
  (∀ (s : State) (row : List Nat) (m c : Nat), row ∈ printedCapacities → (m, c) ∈ modeColumn →
    row.getD 0 0 = s.version.toNat → row.getD 1 0 = s.level.toNat → m = s.mode.toNat →
    ∃ t, exec .capLookup s = .next t ∧ Succeeds s t ∧
      t.capTotal.toNat = row.getD 2 0 ∧ t.capEc.toNat = row.getD 3 0 ∧
      t.capBlocks.toNat = row.getD 4 0 ∧ t.capData.toNat = row.getD 2 0 - row.getD 3 0 ∧
      t.capData.toNat = row.getD 5 0 ∧ 8 * t.capData.toNat = row.getD 6 0 ∧
      t.capChars.toNat = row.getD c 0 ∧
      RegsKept s t [.capTotal, .capEc, .capBlocks, .capData, .capChars] ∧ AllBytesKept s t) ∧
  (∀ s : State, (s.version.toNat = 0 ∨ 4 < s.version.toNat ∨ s.mode.toNat ∉ [1, 2, 4, 8]) →
    Fails .capLookup s 4)

/-- The 45 bytes of the alphanumeric alphabet in the order of their values (41_bitstream.md R135). -/
def printedAlphabet : List Nat :=
  [0x30, 0x31, 0x32, 0x33, 0x34, 0x35, 0x36, 0x37, 0x38, 0x39] ++
  [0x41, 0x42, 0x43, 0x44, 0x45, 0x46, 0x47, 0x48, 0x49, 0x4A, 0x4B, 0x4C, 0x4D] ++
  [0x4E, 0x4F, 0x50, 0x51, 0x52, 0x53, 0x54, 0x55, 0x56, 0x57, 0x58, 0x59, 0x5A] ++
  [0x20, 0x24, 0x25, 0x2A, 0x2B, 0x2D, 0x2E, 0x2F, 0x3A]

/-- The value of a byte of the alphabet is its place in the printed order, and no other byte has one
(41_bitstream.md R135). -/
def Obligations.AlphabetValues : Prop :=
  ∀ b : Byte, alnum b =
    if b.toNat ∈ printedAlphabet then some (printedAlphabet.idxOf b.toNat) else none

/-- The MODE value the selection rule gives a text (41_bitstream.md R137): 1 if every byte is a digit,
else 2 if every byte is in the alphabet, else 4. -/
def modeRule (t : List Byte) : Nat :=
  if ∀ b ∈ t, 0x30 ≤ b.toNat ∧ b.toNat ≤ 0x39 then 1
  else if ∀ b ∈ t, b.toNat ∈ printedAlphabet then 2 else 4

/-- SELECT_MODE (41_bitstream.md R138, R137). -/
def Obligations.SelectModeFollowsTheText : Prop :=
  decode 0x00000001#32 = .command .selectMode ∧ ∀ s : State,
    (256 < s.textLen.toNat → Fails .selectMode s 1) ∧
    (s.textLen.toNat ≤ 256 → ∃ t, exec .selectMode s = .next t ∧ Succeeds s t ∧
      t.mode.toNat = modeRule (textOf s) ∧ RegsKept s t [.mode] ∧ AllBytesKept s t)

/-- SELECT_VERSION (41_bitstream.md R140, R139): the mode of the text and the least version whose
capacity strictly exceeds the length, OutOfRange if there is none. -/
def Obligations.SelectVersionIsLeast : Prop :=
  decode 0x00000002#32 = .command .selectVersion ∧ ∀ s : State,
    (256 < s.textLen.toNat → Fails .selectVersion s 1) ∧
    (s.textLen.toNat ≤ 256 →
      (∀ v, 1 ≤ v → v ≤ 4 →
        capacityOf v (levelOf s.level) (selectMode (textOf s)) ≤ s.textLen.toNat) →
      Fails .selectVersion s 3) ∧
    (∀ v, s.textLen.toNat ≤ 256 → 1 ≤ v → v ≤ 4 →
      s.textLen.toNat < capacityOf v (levelOf s.level) (selectMode (textOf s)) →
      (∀ u, 1 ≤ u → u < v →
        capacityOf u (levelOf s.level) (selectMode (textOf s)) ≤ s.textLen.toNat) →
      ∃ t, exec .selectVersion s = .next t ∧ Succeeds s t ∧
        t.mode.toNat = modeRule (textOf s) ∧ t.version.toNat = v ∧
        RegsKept s t [.mode, .version] ∧ AllBytesKept s t)

/-- The capacity rises strictly with the version at a level and mode, appending characters never lowers
the selected version at a level, and never makes a text fit that did not. Inferences the spec marks as
derived, in 41_bitstream.md sections 1 and 6. -/
def Obligations.VersionIsMonotonic : Prop :=
  (∀ (l : Level) (m : Mode) (u v : Nat), 1 ≤ u → u < v → v ≤ 4 →
    capacityOf u l m < capacityOf v l m) ∧
  ∀ (t u : List Byte) (l : Level) (w : Nat), smallestVersion (t ++ u) l = some w →
    ∃ v, smallestVersion t l = some v ∧ v ≤ w

/-! ## Indicators and bitstreams -/

/-- MODE_IND (41_bitstream.md R147). -/
def Obligations.ModeIndicator : Prop :=
  decode 0x00000004#32 = .command .modeInd ∧ ∀ s : State,
    (s.mode.toNat = 8 → Fails .modeInd s 2) ∧
    (s.mode.toNat ∉ [1, 2, 4, 8] → Fails .modeInd s 1) ∧
    (s.mode.toNat ∈ [1, 2, 4] → ∃ t, exec .modeInd s = .next t ∧ Succeeds s t ∧
      t.fieldVal.toNat = s.mode.toNat ∧ t.fieldW.toNat = 4 ∧
      RegsKept s t [.fieldVal, .fieldW] ∧ AllBytesKept s t)

/-- The count widths as the spec prints them: last version of the tier, then the Numeric, Alphanumeric
and Byte widths (41_bitstream.md R142). -/
def printedWidths : List (List Nat) := [[9, 10, 9, 8], [26, 12, 11, 16], [40, 14, 13, 16]]

/-- The printed width for a version and a MODE value of 1, 2 or 4 (41_bitstream.md R142). -/
def widthRule (v m : Nat) : Nat :=
  let row := if v ≤ 9 then 0 else if v ≤ 26 then 1 else 2
  (printedWidths.getD row []).getD (if m = 1 then 1 else if m = 2 then 2 else 3) 0

/-- COUNT_IND (41_bitstream.md R148, R142). -/
def Obligations.CountIndicator : Prop :=
  decode 0x00000005#32 = .command .countInd ∧ ∀ s : State,
    ((256 < s.textLen.toNat ∨ s.mode.toNat ∉ [1, 2, 4] ∨ s.version.toNat = 0 ∨
      40 < s.version.toNat) → Fails .countInd s 1) ∧
    (s.textLen.toNat ≤ 256 → s.mode.toNat ∈ [1, 2, 4] → 1 ≤ s.version.toNat →
      s.version.toNat ≤ 40 →
      (2 ^ widthRule s.version.toNat s.mode.toNat ≤ s.textLen.toNat → Fails .countInd s 3) ∧
      (s.textLen.toNat < 2 ^ widthRule s.version.toNat s.mode.toNat →
        ∃ t, exec .countInd s = .next t ∧ Succeeds s t ∧ t.fieldVal.toNat = s.textLen.toNat ∧
          t.fieldW.toNat = widthRule s.version.toNat s.mode.toNat ∧
          RegsKept s t [.fieldVal, .fieldW] ∧ AllBytesKept s t))

/-- Numeric data bits (41_bitstream.md R143): groups of three digits in turn; a group's field is the
numeral of its value, at least 10 bits from 100 and at least 4 below, never truncated. -/
def Obligations.NumericBitsByGroups : Prop :=
  numericBits [] = [] ∧
  (∀ (g t : List Byte), g.length = 3 → numericBits (g ++ t) = numericBits g ++ numericBits t) ∧
  (∀ g : List Byte, 1 ≤ g.length → g.length ≤ 3 → (∀ b ∈ g, isDigit b = true) →
    let val := bitsValue (numericBits g)
    val = g.foldl (fun acc b => 10 * acc + (b.toNat - 0x30)) 0 ∧
    (numericBits g).length =
      if 100 ≤ val then 10 else if 64 ≤ val then 7 else if 32 ≤ val then 6
      else if 16 ≤ val then 5 else 4)

/-- Alphanumeric data bits (41_bitstream.md R144): pair p is the 11-bit field 45·first + second, a
trailing single a 6-bit field. -/
def Obligations.AlphanumericBitsByPairs : Prop :=
  ∀ t : List Byte, (∀ b ∈ t, isAlnum b = true) →
    (alnumBits t).length = 11 * (t.length / 2) + 6 * (t.length % 2) ∧
    (∀ p, p < t.length / 2 → bitsValue (((alnumBits t).drop (11 * p)).take 11) =
      45 * printedAlphabet.idxOf (t.getD (2 * p) 0).toNat +
        printedAlphabet.idxOf (t.getD (2 * p + 1) 0).toNat) ∧
    (t.length % 2 = 1 → bitsValue ((alnumBits t).drop (11 * (t.length / 2))) =
      printedAlphabet.idxOf (t.getD (t.length - 1) 0).toNat)

/-- Byte data bits (41_bitstream.md R145): eight bits a byte, most significant first. -/
def Obligations.ByteBitsMostSignificantFirst : Prop :=
  ∀ t : List Byte, (byteBits t).length = 8 * t.length ∧
    ∀ k i, k < t.length → i < 8 →
      (byteBits t).getD (8 * k + i) false = (t.getD k 0).getLsbD (7 - i)

/-- The data bits of a text by the mode the selection rule gives it (41_bitstream.md R146). -/
def dataRule (t : List Byte) : Bits :=
  if modeRule t = 1 then numericBits t else if modeRule t = 2 then alnumBits t else byteBits t

/-- Stream bit i of BITBUF where 10_state.md R44 puts it. -/
abbrev bitbufBit (t : State) (i : Nat) : Bool := (t.readByte (0x200 + i / 8)).getLsbD (7 - i % 8)

/-- BUILD_BITSTREAM (41_bitstream.md R149, with the packing of R155): the data bits only, which are the
numeric, alphanumeric or byte bits of the text by its mode (R146), stream bit i where R44 puts it, zeros
to the end of the last byte, later bytes of BITBUF kept. -/
def Obligations.BuildBitstreamWritesTheDataBits : Prop :=
  decode 0x00000006#32 = .command .buildBitstream ∧ (∀ t : List Byte, dataBits t = dataRule t) ∧
  ∀ s : State,
    (256 < s.textLen.toNat → Fails .buildBitstream s 1) ∧
    (s.textLen.toNat ≤ 256 → ∃ t, exec .buildBitstream s = .next t ∧ Succeeds s t ∧
      t.mode.toNat = modeRule (textOf s) ∧ t.bitLen.toNat = (dataBits (textOf s)).length ∧
      t.bitLen.toNat ≤ 2048 ∧
      (∀ i, i < (t.bitLen.toNat + 7) / 8 * 8 →
        t.streamBit i = (dataBits (textOf s)).getD i false ∧ bitbufBit t i = t.streamBit i) ∧
      RegsKept s t [.mode, .bitLen] ∧
      BytesKept s t 0x200 (((dataBits (textOf s)).length + 7) / 8))

/-- BUILD_PADDED (41_bitstream.md R154, with the stream of R153): header, terminator, alignment and pad
codewords to the capacity of the smallest version. -/
def Obligations.BuildPaddedFillsTheCapacity : Prop :=
  decode 0x00000007#32 = .command .buildPadded ∧ ∀ s : State,
    (256 < s.textLen.toNat → Fails .buildPadded s 1) ∧
    (s.textLen.toNat ≤ 256 → smallestVersion (textOf s) (levelOf s.level) = none →
      Fails .buildPadded s 3) ∧
    (∀ v, s.textLen.toNat ≤ 256 → smallestVersion (textOf s) (levelOf s.level) = some v →
      ∃ t, exec .buildPadded s = .next t ∧ Succeeds s t ∧
        t.mode.toNat = modeRule (textOf s) ∧ t.version.toNat = v ∧
        t.bitLen.toNat = 8 * dataCW v (levelOf s.level) ∧
        (let h := bin 4 (modeRule (textOf s)) ++
            bin (widthRule v (modeRule (textOf s))) s.textLen.toNat ++ dataRule (textOf s)
         h.length ≤ t.bitLen.toNat ∧
         ∀ i, i < t.bitLen.toNat → bitbufBit t i = paddedBit h t.bitLen.toNat i) ∧
        RegsKept s t [.mode, .version, .bitLen] ∧
        BytesKept s t 0x200 (dataCW v (levelOf s.level)))

/-- The padded stream of a text in its smallest version has exactly the capacity's length. An inference
the spec marks as derived, in 41_bitstream.md section 6. -/
def Obligations.PaddedStreamHasTheCapacityLength : Prop :=
  ∀ (t : List Byte) (l : Level) (v : Nat), smallestVersion t l = some v →
    (padded t v l).length = capBits v l

/-! ## Generator, divider, assembler -/

/-- The generator polynomial (42_reed_solomon.md R181): for every degree e of 1..32 it takes at every
element x the value (x - α^0)...(x - α^(e-1)), has leading coefficient 1 and degree e, and no
coefficient is 0. -/
def Obligations.GeneratorIsTheProductOfItsRoots : Prop :=
  ∀ e, 1 ≤ e → e ≤ 32 →
    (genCoeffs e).length = e + 1 ∧ (genCoeffs e).head? = some 1 ∧ (∀ c ∈ genCoeffs e, c ≠ 0) ∧
    ∀ x : Byte, polyEval (genCoeffs e) x =
      (List.range e).foldl (fun acc i => gmul acc (x ^^^ BitVec.ofNat 8 (alphaPow i))) 1

/-- GEN_POLY (42_reed_solomon.md R183). -/
def Obligations.GenPolyWritesTheGenerator : Prop :=
  decode 0x00000018#32 = .command .genPoly ∧ ∀ s : State,
    (s.genDeg.toNat = 0 ∨ 32 < s.genDeg.toNat → Fails .genPoly s 1) ∧
    (1 ≤ s.genDeg.toNat → s.genDeg.toNat ≤ 32 → ∃ t, exec .genPoly s = .next t ∧ Succeeds s t ∧
      t.genLen.toNat = s.genDeg.toNat + 1 ∧
      (∀ k, k ≤ s.genDeg.toNat → (t.readByte (0x340 + k)).toNat < 255 ∧
        alphaPow (t.readByte (0x340 + k)).toNat = ((genCoeffs s.genDeg.toNat).getD k 0).toNat) ∧
      (∀ k, s.genDeg.toNat < k → k < 64 → t.readByte (0x340 + k) = 0) ∧
      RegsKept s t [.genLen] ∧ BytesKept s t 0x340 64)

/-- The codewords BITBUF holds for RS_ENCODE and ASSEMBLE (10_state.md R43). -/
abbrev dataOf (s : State) : List Byte := s.readBytes 0x200 (s.bitLen.toNat / 8)

/-- RS_ENCODE (42_reed_solomon.md R186): the checks in their order, then the remainder of the division
in ECBUF; the division itself is the next two statements. -/
def Obligations.RsEncodeWritesTheRemainder : Prop :=
  decode 0x00000019#32 = .command .rsEncode ∧ ∀ s : State,
    (2048 < s.bitLen.toNat ∨ s.bitLen.toNat % 8 ≠ 0 → Fails .rsEncode s 1) ∧
    (s.bitLen.toNat ≤ 2048 → s.bitLen.toNat % 8 = 0 →
      (s.version.toNat = 0 ∨ 4 < s.version.toNat → Fails .rsEncode s 4) ∧
      (∀ r, capRow s.version.toNat (levelOf s.level) = some r →
        (r.blocks ≠ 1 → Fails .rsEncode s 2) ∧
        (r.blocks = 1 → ∃ t, exec .rsEncode s = .next t ∧ Succeeds s t ∧
          t.ecLen.toNat = r.ec ∧ t.readBytes 0x300 r.ec = divide (dataOf s) r.ec ∧
          RegsKept s t [.ecLen] ∧ BytesKept s t 0x300 r.ec)))

/-- The EC codewords are the remainder of the message polynomial by the generator: M(x) = q(x)·g(x) +
c(x) with c of e coefficients. An inference the spec marks as derived, in 42_reed_solomon.md section 3.
-/
def Obligations.EcCodewordsAreTheRemainder : Prop :=
  ∀ (d : List Byte) (e : Nat), 1 ≤ e → e ≤ 32 →
    (divide d e).length = e ∧
    ∃ q : List Byte, q.length = d.length ∧
      polyAdd (polyMul q (genCoeffs e)) (List.replicate d.length 0 ++ divide d e) =
        d ++ List.replicate e 0

/-- Every Reed–Solomon codeword, data then EC, vanishes at every root of the generator. Rests on
42_reed_solomon.md sections 2 and 3. -/
def Obligations.CodewordsVanishAtTheRoots : Prop :=
  ∀ (d : List Byte) (e i : Nat), 1 ≤ e → e ≤ 32 → i < e →
    polyEval (d ++ divide d e) (BitVec.ofNat 8 (alphaPow i)) = 0

/-- ASSEMBLE (42_reed_solomon.md R190). -/
def Obligations.AssembleConcatenates : Prop :=
  decode 0x0000001A#32 = .command .assemble ∧ ∀ s : State,
    (2048 < s.bitLen.toNat ∨ s.bitLen.toNat % 8 ≠ 0 ∨ 32 < s.ecLen.toNat → Fails .assemble s 1) ∧
    (s.bitLen.toNat ≤ 2048 → s.bitLen.toNat % 8 = 0 → s.ecLen.toNat ≤ 32 →
      ∃ t, exec .assemble s = .next t ∧ Succeeds s t ∧
        (∀ k, k < s.bitLen.toNat / 8 → t.readByte (0x400 + k) = s.readByte (0x200 + k)) ∧
        (∀ k, k < s.ecLen.toNat →
          t.readByte (0x400 + s.bitLen.toNat / 8 + k) = s.readByte (0x300 + k)) ∧
        t.finalLen.toNat = s.bitLen.toNat / 8 + s.ecLen.toNat ∧
        RegsKept s t [.finalLen] ∧
        BytesKept s t 0x400 (s.bitLen.toNat / 8 + s.ecLen.toNat))

/-! ## The matrix -/

/-- The finder pattern as the spec prints it, 1 for # (43_matrix.md R211). -/
def printedFinder : List (List Nat) :=
  [[1, 1, 1, 1, 1, 1, 1], [1, 0, 0, 0, 0, 0, 1], [1, 0, 1, 1, 1, 0, 1], [1, 0, 1, 1, 1, 0, 1],
   [1, 0, 1, 1, 1, 0, 1], [1, 0, 0, 0, 0, 0, 1], [1, 1, 1, 1, 1, 1, 1]]

/-- The reserved cells of versions 1 to 4 (43_matrix.md R211 to R215): three finders showing the printed
picture, the six separator strips, the two timing strips, and no other cell, as the number of reserved
cells shows. -/
def Obligations.ReservedCellPatterns : Prop :=
  ∀ v, 1 ≤ v → v ≤ 4 → (let side := 4 * v + 17
    (∀ dx dy, dx < 7 → dy < 7 →
      let b := (printedFinder.getD dy []).getD dx 0 == 1
      patternAt side dx dy = some b ∧ patternAt side (side - 7 + dx) dy = some b ∧
        patternAt side dx (side - 7 + dy) = some b) ∧
    (∀ k, k < 8 →
      patternAt side 7 k = some false ∧ patternAt side k 7 = some false ∧
      patternAt side (side - 8) k = some false ∧ patternAt side (side - 8 + k) 7 = some false ∧
      patternAt side 7 (side - 8 + k) = some false ∧ patternAt side k (side - 8) = some false) ∧
    (∀ k, 8 ≤ k → k ≤ side - 9 → patternAt side k 6 = some (k % 2 == 0) ∧
      patternAt side 6 k = some (k % 2 == 0)) ∧
    (((List.range side).map (fun y =>
      ((List.range side).filter (fun x => (patternAt side x y).isSome)).length)).sum =
        3 * 49 + 3 * 15 + 2 * (side - 16)))

/-- The traversal of the available cells (43_matrix.md R216): it visits exactly the cells of the side ×
side square that are not reserved, in strictly rising zig-zag position (so each once). -/
def Obligations.PlacementOrderIsTheZigZag : Prop :=
  ∀ v, 1 ≤ v → v ≤ 4 → (let side := 4 * v + 17
    (∀ x y, (x, y) ∈ placementOrder side ↔ x < side ∧ y < side ∧ patternAt side x y = none) ∧
    (placementOrder side).Pairwise (fun c d => traversalKey side c < traversalKey side d))

/-- The number of available cells of versions 1 to 4, and that a version's codewords fit in them. An
inference the spec marks as derived, in 43_matrix.md section 2. -/
def Obligations.AvailableCellCounts : Prop :=
  (List.map (fun v => (placementOrder (sideOf v)).length) [1, 2, 3, 4] = [239, 415, 623, 863]) ∧
  (∀ v l r, capRow v l = some r → 8 * r.total < (placementOrder (sideOf v)).length)

/-- PLACE_MATRIX (43_matrix.md R220, with R210, R217 and R218): the checks in their order, then every
cell of the store: pattern value, codeword bit or light. -/
def Obligations.PlaceMatrixWritesTheSymbol : Prop :=
  decode 0x00000020#32 = .command .placeMatrix ∧ ∀ s : State,
    (512 < s.finalLen.toNat → Fails .placeMatrix s 1) ∧
    (s.finalLen.toNat ≤ 512 →
      (s.version.toNat = 0 ∨ 4 < s.version.toNat → Fails .placeMatrix s 3) ∧
      (1 ≤ s.version.toNat → s.version.toNat ≤ 4 →
        ((placementOrder (4 * s.version.toNat + 17)).length < 8 * s.finalLen.toNat →
          Fails .placeMatrix s 3) ∧
        (8 * s.finalLen.toNat ≤ (placementOrder (4 * s.version.toNat + 17)).length →
          ∃ t, exec .placeMatrix s = .next t ∧ Succeeds s t ∧
            t.side.toNat = 4 * s.version.toNat + 17 ∧
            matrixHolds t (4 * s.version.toNat + 17)
              (byteBits (s.readBytes 0x400 s.finalLen.toNat)) ∧
            RegsKept s t [.side] ∧ BytesKept s t 0x800 264)))

/-- MATRIX is not mutated but by PLACE_MATRIX, ENCODE or a hardware reset: a step that changes a cell is
one of these. An inference the spec marks as derived, in 43_matrix.md section 3. -/
def Obligations.OnlyPlacementChangesTheMatrix : Prop :=
  ∀ (s t : State) (x y : Nat), step s = .next t → x < 33 → y < 33 → t.cell x y ≠ s.cell x y →
    (∃ w, s.turn = .engine w ∧ (decode w = .command .placeMatrix ∨ decode w = .command .encode)) ∨
    (∃ b rest, s.turn = .host (.resetPin b) rest)

/-! ## The whole pipeline -/

/-- ENCODE (44_control.md R242): the checks in their order, then every result of the pipeline at once. -/
def Obligations.EncodeRunsThePipeline : Prop :=
  decode 0x00000030#32 = .command .encode ∧ ∀ s : State,
    (256 < s.textLen.toNat → Fails .encode s 1) ∧
    (s.textLen.toNat ≤ 256 → smallestVersion (textOf s) (levelOf s.level) = none →
      Fails .encode s 3) ∧
    (∀ v r, s.textLen.toNat ≤ 256 → smallestVersion (textOf s) (levelOf s.level) = some v →
      capRow v (levelOf s.level) = some r →
      (r.blocks ≠ 1 → Fails .encode s 2) ∧
      (r.blocks = 1 →
        let d := packBits (padded (textOf s) v (levelOf s.level))
        let f := d ++ divide d r.ec
        ∃ t, exec .encode s = .next t ∧ Succeeds s t ∧
          t.mode.toNat = modeRule (textOf s) ∧ t.version.toNat = v ∧
          d.length = r.total - r.ec ∧ t.bitLen.toNat = 8 * (r.total - r.ec) ∧ Holds t 0x200 d ∧
          t.ecLen.toNat = r.ec ∧ Holds t 0x300 (divide d r.ec) ∧
          t.finalLen.toNat = r.total ∧ Holds t 0x400 f ∧
          t.side.toNat = 4 * v + 17 ∧ matrixHolds t (4 * v + 17) (byteBits f) ∧
          RegsKept s t [.mode, .version, .bitLen, .ecLen, .finalLen, .side] ∧
          (∀ k, ¬(0x200 ≤ k ∧ k < 0x200 + (r.total - r.ec)) → ¬(0x300 ≤ k ∧ k < 0x300 + r.ec) →
            ¬(0x400 ≤ k ∧ k < 0x400 + r.total) → ¬(0x800 ≤ k ∧ k < 0x908) →
            t.readByte k = s.readByte k)))

/-- When ENCODE succeeds its end state is that of BUILD_PADDED, RS_ENCODE, ASSEMBLE, PLACE_MATRIX run in
turn, each succeeding. An inference the spec marks as derived, in 44_control.md section 2. -/
def Obligations.EncodeEqualsTheFourCommands : Prop :=
  ∀ s t : State, exec .encode s = .next t → t.err = false →
    ∃ s1 s2 s3, exec .buildPadded s = .next s1 ∧ s1.err = false ∧
      exec .rsEncode s1 = .next s2 ∧ s2.err = false ∧
      exec .assemble s2 = .next s3 ∧ s3.err = false ∧ exec .placeMatrix s3 = .next t
end

