-- ==== Sys2Proof/Laws/State.lean ====
section
/-! SUPPORT. The small lemmas of State: what each named update does to each field, by rfl, so that no
proof unfolds a record update. -/

namespace Sys2Proof.Machine

/-! ## State.finish -/

@[simp] theorem State.finish_pending (s : State) (e : Option ErrCode) :
    (s.finish e).pending = none := rfl
@[simp] theorem State.finish_done (s : State) (e : Option ErrCode) : (s.finish e).done = true := rfl
@[simp] theorem State.finish_err (s : State) (e : Option ErrCode) :
    (s.finish e).err = e.isSome := rfl
@[simp] theorem State.finish_haz (s : State) (e : Option ErrCode) : (s.finish e).haz = s.haz := rfl
@[simp] theorem State.finish_errCode (s : State) (e : Option ErrCode) :
    (s.finish e).errCode = (match e with
      | none => 0
      | some c => c.code) := rfl
@[simp] theorem State.finish_level (s : State) (e : Option ErrCode) :
    (s.finish e).level = s.level := rfl
@[simp] theorem State.finish_version (s : State) (e : Option ErrCode) :
    (s.finish e).version = s.version := rfl
@[simp] theorem State.finish_mode (s : State) (e : Option ErrCode) :
    (s.finish e).mode = s.mode := rfl
@[simp] theorem State.finish_textLen (s : State) (e : Option ErrCode) :
    (s.finish e).textLen = s.textLen := rfl
@[simp] theorem State.finish_bitLen (s : State) (e : Option ErrCode) :
    (s.finish e).bitLen = s.bitLen := rfl
@[simp] theorem State.finish_ecLen (s : State) (e : Option ErrCode) :
    (s.finish e).ecLen = s.ecLen := rfl
@[simp] theorem State.finish_finalLen (s : State) (e : Option ErrCode) :
    (s.finish e).finalLen = s.finalLen := rfl
@[simp] theorem State.finish_gfA (s : State) (e : Option ErrCode) : (s.finish e).gfA = s.gfA := rfl
@[simp] theorem State.finish_gfB (s : State) (e : Option ErrCode) : (s.finish e).gfB = s.gfB := rfl
@[simp] theorem State.finish_gfR (s : State) (e : Option ErrCode) : (s.finish e).gfR = s.gfR := rfl
@[simp] theorem State.finish_genDeg (s : State) (e : Option ErrCode) :
    (s.finish e).genDeg = s.genDeg := rfl
@[simp] theorem State.finish_genLen (s : State) (e : Option ErrCode) :
    (s.finish e).genLen = s.genLen := rfl
@[simp] theorem State.finish_fieldVal (s : State) (e : Option ErrCode) :
    (s.finish e).fieldVal = s.fieldVal := rfl
@[simp] theorem State.finish_fieldW (s : State) (e : Option ErrCode) :
    (s.finish e).fieldW = s.fieldW := rfl
@[simp] theorem State.finish_capTotal (s : State) (e : Option ErrCode) :
    (s.finish e).capTotal = s.capTotal := rfl
@[simp] theorem State.finish_capData (s : State) (e : Option ErrCode) :
    (s.finish e).capData = s.capData := rfl
@[simp] theorem State.finish_capEc (s : State) (e : Option ErrCode) :
    (s.finish e).capEc = s.capEc := rfl
@[simp] theorem State.finish_capBlocks (s : State) (e : Option ErrCode) :
    (s.finish e).capBlocks = s.capBlocks := rfl
@[simp] theorem State.finish_capChars (s : State) (e : Option ErrCode) :
    (s.finish e).capChars = s.capChars := rfl
@[simp] theorem State.finish_side (s : State) (e : Option ErrCode) :
    (s.finish e).side = s.side := rfl
@[simp] theorem State.finish_mem (s : State) (e : Option ErrCode) : (s.finish e).mem = s.mem := rfl
@[simp] theorem State.finish_resetIn (s : State) (e : Option ErrCode) :
    (s.finish e).resetIn = s.resetIn := rfl
@[simp] theorem State.finish_inputs (s : State) (e : Option ErrCode) :
    (s.finish e).inputs = s.inputs := rfl
@[simp] theorem State.finish_replies (s : State) (e : Option ErrCode) :
    (s.finish e).replies = s.replies := rfl
@[simp] theorem State.finish_epoch (s : State) (e : Option ErrCode) :
    (s.finish e).epoch = s.epoch := rfl
@[simp] theorem State.finish_draws (s : State) (e : Option ErrCode) :
    (s.finish e).draws = s.draws := rfl

/-! ## State.accept -/

@[simp] theorem State.accept_pending (s : State) (w : Word) : (s.accept w).pending = some w := rfl
@[simp] theorem State.accept_done (s : State) (w : Word) : (s.accept w).done = false := rfl
@[simp] theorem State.accept_err (s : State) (w : Word) : (s.accept w).err = false := rfl
@[simp] theorem State.accept_haz (s : State) (w : Word) : (s.accept w).haz = s.haz := rfl
@[simp] theorem State.accept_errCode (s : State) (w : Word) : (s.accept w).errCode = 0 := rfl
@[simp] theorem State.accept_level (s : State) (w : Word) : (s.accept w).level = s.level := rfl
@[simp] theorem State.accept_version (s : State) (w : Word) :
    (s.accept w).version = s.version := rfl
@[simp] theorem State.accept_mode (s : State) (w : Word) : (s.accept w).mode = s.mode := rfl
@[simp] theorem State.accept_textLen (s : State) (w : Word) :
    (s.accept w).textLen = s.textLen := rfl
@[simp] theorem State.accept_bitLen (s : State) (w : Word) : (s.accept w).bitLen = s.bitLen := rfl
@[simp] theorem State.accept_ecLen (s : State) (w : Word) : (s.accept w).ecLen = s.ecLen := rfl
@[simp] theorem State.accept_finalLen (s : State) (w : Word) :
    (s.accept w).finalLen = s.finalLen := rfl
@[simp] theorem State.accept_gfA (s : State) (w : Word) : (s.accept w).gfA = s.gfA := rfl
@[simp] theorem State.accept_gfB (s : State) (w : Word) : (s.accept w).gfB = s.gfB := rfl
@[simp] theorem State.accept_gfR (s : State) (w : Word) : (s.accept w).gfR = s.gfR := rfl
@[simp] theorem State.accept_genDeg (s : State) (w : Word) : (s.accept w).genDeg = s.genDeg := rfl
@[simp] theorem State.accept_genLen (s : State) (w : Word) : (s.accept w).genLen = s.genLen := rfl
@[simp] theorem State.accept_fieldVal (s : State) (w : Word) :
    (s.accept w).fieldVal = s.fieldVal := rfl
@[simp] theorem State.accept_fieldW (s : State) (w : Word) : (s.accept w).fieldW = s.fieldW := rfl
@[simp] theorem State.accept_capTotal (s : State) (w : Word) :
    (s.accept w).capTotal = s.capTotal := rfl
@[simp] theorem State.accept_capData (s : State) (w : Word) :
    (s.accept w).capData = s.capData := rfl
@[simp] theorem State.accept_capEc (s : State) (w : Word) : (s.accept w).capEc = s.capEc := rfl
@[simp] theorem State.accept_capBlocks (s : State) (w : Word) :
    (s.accept w).capBlocks = s.capBlocks := rfl
@[simp] theorem State.accept_capChars (s : State) (w : Word) :
    (s.accept w).capChars = s.capChars := rfl
@[simp] theorem State.accept_side (s : State) (w : Word) : (s.accept w).side = s.side := rfl
@[simp] theorem State.accept_mem (s : State) (w : Word) : (s.accept w).mem = s.mem := rfl
@[simp] theorem State.accept_resetIn (s : State) (w : Word) :
    (s.accept w).resetIn = s.resetIn := rfl
@[simp] theorem State.accept_inputs (s : State) (w : Word) : (s.accept w).inputs = s.inputs := rfl
@[simp] theorem State.accept_replies (s : State) (w : Word) :
    (s.accept w).replies = s.replies := rfl
@[simp] theorem State.accept_epoch (s : State) (w : Word) : (s.accept w).epoch = s.epoch := rfl
@[simp] theorem State.accept_draws (s : State) (w : Word) : (s.accept w).draws = s.draws := rfl

/-! ## State.storeBytes -/

@[simp] theorem State.storeBytes_pending (s : State) (a : Nat) (bs : List Byte) :
    (s.storeBytes a bs).pending = s.pending := rfl
@[simp] theorem State.storeBytes_done (s : State) (a : Nat) (bs : List Byte) :
    (s.storeBytes a bs).done = s.done := rfl
@[simp] theorem State.storeBytes_err (s : State) (a : Nat) (bs : List Byte) :
    (s.storeBytes a bs).err = s.err := rfl
@[simp] theorem State.storeBytes_haz (s : State) (a : Nat) (bs : List Byte) :
    (s.storeBytes a bs).haz = s.haz := rfl
@[simp] theorem State.storeBytes_errCode (s : State) (a : Nat) (bs : List Byte) :
    (s.storeBytes a bs).errCode = s.errCode := rfl
@[simp] theorem State.storeBytes_level (s : State) (a : Nat) (bs : List Byte) :
    (s.storeBytes a bs).level = s.level := rfl
@[simp] theorem State.storeBytes_version (s : State) (a : Nat) (bs : List Byte) :
    (s.storeBytes a bs).version = s.version := rfl
@[simp] theorem State.storeBytes_mode (s : State) (a : Nat) (bs : List Byte) :
    (s.storeBytes a bs).mode = s.mode := rfl
@[simp] theorem State.storeBytes_textLen (s : State) (a : Nat) (bs : List Byte) :
    (s.storeBytes a bs).textLen = s.textLen := rfl
@[simp] theorem State.storeBytes_bitLen (s : State) (a : Nat) (bs : List Byte) :
    (s.storeBytes a bs).bitLen = s.bitLen := rfl
@[simp] theorem State.storeBytes_ecLen (s : State) (a : Nat) (bs : List Byte) :
    (s.storeBytes a bs).ecLen = s.ecLen := rfl
@[simp] theorem State.storeBytes_finalLen (s : State) (a : Nat) (bs : List Byte) :
    (s.storeBytes a bs).finalLen = s.finalLen := rfl
@[simp] theorem State.storeBytes_gfA (s : State) (a : Nat) (bs : List Byte) :
    (s.storeBytes a bs).gfA = s.gfA := rfl
@[simp] theorem State.storeBytes_gfB (s : State) (a : Nat) (bs : List Byte) :
    (s.storeBytes a bs).gfB = s.gfB := rfl
@[simp] theorem State.storeBytes_gfR (s : State) (a : Nat) (bs : List Byte) :
    (s.storeBytes a bs).gfR = s.gfR := rfl
@[simp] theorem State.storeBytes_genDeg (s : State) (a : Nat) (bs : List Byte) :
    (s.storeBytes a bs).genDeg = s.genDeg := rfl
@[simp] theorem State.storeBytes_genLen (s : State) (a : Nat) (bs : List Byte) :
    (s.storeBytes a bs).genLen = s.genLen := rfl
@[simp] theorem State.storeBytes_fieldVal (s : State) (a : Nat) (bs : List Byte) :
    (s.storeBytes a bs).fieldVal = s.fieldVal := rfl
@[simp] theorem State.storeBytes_fieldW (s : State) (a : Nat) (bs : List Byte) :
    (s.storeBytes a bs).fieldW = s.fieldW := rfl
@[simp] theorem State.storeBytes_capTotal (s : State) (a : Nat) (bs : List Byte) :
    (s.storeBytes a bs).capTotal = s.capTotal := rfl
@[simp] theorem State.storeBytes_capData (s : State) (a : Nat) (bs : List Byte) :
    (s.storeBytes a bs).capData = s.capData := rfl
@[simp] theorem State.storeBytes_capEc (s : State) (a : Nat) (bs : List Byte) :
    (s.storeBytes a bs).capEc = s.capEc := rfl
@[simp] theorem State.storeBytes_capBlocks (s : State) (a : Nat) (bs : List Byte) :
    (s.storeBytes a bs).capBlocks = s.capBlocks := rfl
@[simp] theorem State.storeBytes_capChars (s : State) (a : Nat) (bs : List Byte) :
    (s.storeBytes a bs).capChars = s.capChars := rfl
@[simp] theorem State.storeBytes_side (s : State) (a : Nat) (bs : List Byte) :
    (s.storeBytes a bs).side = s.side := rfl
@[simp] theorem State.storeBytes_mem (s : State) (a : Nat) (bs : List Byte) :
    (s.storeBytes a bs).mem = s.mem.store a bs := rfl
@[simp] theorem State.storeBytes_resetIn (s : State) (a : Nat) (bs : List Byte) :
    (s.storeBytes a bs).resetIn = s.resetIn := rfl
@[simp] theorem State.storeBytes_inputs (s : State) (a : Nat) (bs : List Byte) :
    (s.storeBytes a bs).inputs = s.inputs := rfl
@[simp] theorem State.storeBytes_replies (s : State) (a : Nat) (bs : List Byte) :
    (s.storeBytes a bs).replies = s.replies := rfl
@[simp] theorem State.storeBytes_epoch (s : State) (a : Nat) (bs : List Byte) :
    (s.storeBytes a bs).epoch = s.epoch := rfl
@[simp] theorem State.storeBytes_draws (s : State) (a : Nat) (bs : List Byte) :
    (s.storeBytes a bs).draws = s.draws := rfl

/-! ## State.clearRegs -/

@[simp] theorem State.clearRegs_pending (s : State) : (s.clearRegs).pending = none := rfl
@[simp] theorem State.clearRegs_done (s : State) : (s.clearRegs).done = false := rfl
@[simp] theorem State.clearRegs_err (s : State) : (s.clearRegs).err = false := rfl
@[simp] theorem State.clearRegs_haz (s : State) : (s.clearRegs).haz = false := rfl
@[simp] theorem State.clearRegs_errCode (s : State) : (s.clearRegs).errCode = 0 := rfl
@[simp] theorem State.clearRegs_level (s : State) : (s.clearRegs).level = 0 := rfl
@[simp] theorem State.clearRegs_version (s : State) : (s.clearRegs).version = 0 := rfl
@[simp] theorem State.clearRegs_mode (s : State) : (s.clearRegs).mode = 0 := rfl
@[simp] theorem State.clearRegs_textLen (s : State) : (s.clearRegs).textLen = 0 := rfl
@[simp] theorem State.clearRegs_bitLen (s : State) : (s.clearRegs).bitLen = 0 := rfl
@[simp] theorem State.clearRegs_ecLen (s : State) : (s.clearRegs).ecLen = 0 := rfl
@[simp] theorem State.clearRegs_finalLen (s : State) : (s.clearRegs).finalLen = 0 := rfl
@[simp] theorem State.clearRegs_gfA (s : State) : (s.clearRegs).gfA = 0 := rfl
@[simp] theorem State.clearRegs_gfB (s : State) : (s.clearRegs).gfB = 0 := rfl
@[simp] theorem State.clearRegs_gfR (s : State) : (s.clearRegs).gfR = 0 := rfl
@[simp] theorem State.clearRegs_genDeg (s : State) : (s.clearRegs).genDeg = 0 := rfl
@[simp] theorem State.clearRegs_genLen (s : State) : (s.clearRegs).genLen = 0 := rfl
@[simp] theorem State.clearRegs_fieldVal (s : State) : (s.clearRegs).fieldVal = 0 := rfl
@[simp] theorem State.clearRegs_fieldW (s : State) : (s.clearRegs).fieldW = 0 := rfl
@[simp] theorem State.clearRegs_capTotal (s : State) : (s.clearRegs).capTotal = 0 := rfl
@[simp] theorem State.clearRegs_capData (s : State) : (s.clearRegs).capData = 0 := rfl
@[simp] theorem State.clearRegs_capEc (s : State) : (s.clearRegs).capEc = 0 := rfl
@[simp] theorem State.clearRegs_capBlocks (s : State) : (s.clearRegs).capBlocks = 0 := rfl
@[simp] theorem State.clearRegs_capChars (s : State) : (s.clearRegs).capChars = 0 := rfl
@[simp] theorem State.clearRegs_side (s : State) : (s.clearRegs).side = 0 := rfl
@[simp] theorem State.clearRegs_mem (s : State) : (s.clearRegs).mem = s.mem := rfl
@[simp] theorem State.clearRegs_resetIn (s : State) : (s.clearRegs).resetIn = s.resetIn := rfl
@[simp] theorem State.clearRegs_inputs (s : State) : (s.clearRegs).inputs = s.inputs := rfl
@[simp] theorem State.clearRegs_replies (s : State) : (s.clearRegs).replies = s.replies := rfl
@[simp] theorem State.clearRegs_epoch (s : State) : (s.clearRegs).epoch = s.epoch := rfl
@[simp] theorem State.clearRegs_draws (s : State) : (s.clearRegs).draws = s.draws := rfl

/-! ## State.hardwareReset -/

@[simp] theorem State.hardwareReset_pending (s : State) : (s.hardwareReset).pending = none := rfl
@[simp] theorem State.hardwareReset_done (s : State) : (s.hardwareReset).done = false := rfl
@[simp] theorem State.hardwareReset_err (s : State) : (s.hardwareReset).err = false := rfl
@[simp] theorem State.hardwareReset_haz (s : State) : (s.hardwareReset).haz = false := rfl
@[simp] theorem State.hardwareReset_errCode (s : State) : (s.hardwareReset).errCode = 0 := rfl
@[simp] theorem State.hardwareReset_level (s : State) : (s.hardwareReset).level = 0 := rfl
@[simp] theorem State.hardwareReset_version (s : State) : (s.hardwareReset).version = 0 := rfl
@[simp] theorem State.hardwareReset_mode (s : State) : (s.hardwareReset).mode = 0 := rfl
@[simp] theorem State.hardwareReset_textLen (s : State) : (s.hardwareReset).textLen = 0 := rfl
@[simp] theorem State.hardwareReset_bitLen (s : State) : (s.hardwareReset).bitLen = 0 := rfl
@[simp] theorem State.hardwareReset_ecLen (s : State) : (s.hardwareReset).ecLen = 0 := rfl
@[simp] theorem State.hardwareReset_finalLen (s : State) : (s.hardwareReset).finalLen = 0 := rfl
@[simp] theorem State.hardwareReset_gfA (s : State) : (s.hardwareReset).gfA = 0 := rfl
@[simp] theorem State.hardwareReset_gfB (s : State) : (s.hardwareReset).gfB = 0 := rfl
@[simp] theorem State.hardwareReset_gfR (s : State) : (s.hardwareReset).gfR = 0 := rfl
@[simp] theorem State.hardwareReset_genDeg (s : State) : (s.hardwareReset).genDeg = 0 := rfl
@[simp] theorem State.hardwareReset_genLen (s : State) : (s.hardwareReset).genLen = 0 := rfl
@[simp] theorem State.hardwareReset_fieldVal (s : State) : (s.hardwareReset).fieldVal = 0 := rfl
@[simp] theorem State.hardwareReset_fieldW (s : State) : (s.hardwareReset).fieldW = 0 := rfl
@[simp] theorem State.hardwareReset_capTotal (s : State) : (s.hardwareReset).capTotal = 0 := rfl
@[simp] theorem State.hardwareReset_capData (s : State) : (s.hardwareReset).capData = 0 := rfl
@[simp] theorem State.hardwareReset_capEc (s : State) : (s.hardwareReset).capEc = 0 := rfl
@[simp] theorem State.hardwareReset_capBlocks (s : State) : (s.hardwareReset).capBlocks = 0 := rfl
@[simp] theorem State.hardwareReset_capChars (s : State) : (s.hardwareReset).capChars = 0 := rfl
@[simp] theorem State.hardwareReset_side (s : State) : (s.hardwareReset).side = 0 := rfl
@[simp] theorem State.hardwareReset_mem (s : State) : (s.hardwareReset).mem = [] := rfl
@[simp] theorem State.hardwareReset_resetIn (s : State) :
    (s.hardwareReset).resetIn = s.resetIn := rfl
@[simp] theorem State.hardwareReset_inputs (s : State) : (s.hardwareReset).inputs = s.inputs := rfl
@[simp] theorem State.hardwareReset_replies (s : State) :
    (s.hardwareReset).replies = s.replies := rfl
@[simp] theorem State.hardwareReset_epoch (s : State) : (s.hardwareReset).epoch = s.epoch + 1 := rfl
@[simp] theorem State.hardwareReset_draws (s : State) : (s.hardwareReset).draws = s.draws := rfl

/-! ## State.reply -/

@[simp] theorem State.reply_pending (s : State) (v : Word) : (s.reply v).pending = s.pending := rfl
@[simp] theorem State.reply_done (s : State) (v : Word) : (s.reply v).done = s.done := rfl
@[simp] theorem State.reply_err (s : State) (v : Word) : (s.reply v).err = s.err := rfl
@[simp] theorem State.reply_haz (s : State) (v : Word) : (s.reply v).haz = s.haz := rfl
@[simp] theorem State.reply_errCode (s : State) (v : Word) : (s.reply v).errCode = s.errCode := rfl
@[simp] theorem State.reply_level (s : State) (v : Word) : (s.reply v).level = s.level := rfl
@[simp] theorem State.reply_version (s : State) (v : Word) : (s.reply v).version = s.version := rfl
@[simp] theorem State.reply_mode (s : State) (v : Word) : (s.reply v).mode = s.mode := rfl
@[simp] theorem State.reply_textLen (s : State) (v : Word) : (s.reply v).textLen = s.textLen := rfl
@[simp] theorem State.reply_bitLen (s : State) (v : Word) : (s.reply v).bitLen = s.bitLen := rfl
@[simp] theorem State.reply_ecLen (s : State) (v : Word) : (s.reply v).ecLen = s.ecLen := rfl
@[simp] theorem State.reply_finalLen (s : State) (v : Word) :
    (s.reply v).finalLen = s.finalLen := rfl
@[simp] theorem State.reply_gfA (s : State) (v : Word) : (s.reply v).gfA = s.gfA := rfl
@[simp] theorem State.reply_gfB (s : State) (v : Word) : (s.reply v).gfB = s.gfB := rfl
@[simp] theorem State.reply_gfR (s : State) (v : Word) : (s.reply v).gfR = s.gfR := rfl
@[simp] theorem State.reply_genDeg (s : State) (v : Word) : (s.reply v).genDeg = s.genDeg := rfl
@[simp] theorem State.reply_genLen (s : State) (v : Word) : (s.reply v).genLen = s.genLen := rfl
@[simp] theorem State.reply_fieldVal (s : State) (v : Word) :
    (s.reply v).fieldVal = s.fieldVal := rfl
@[simp] theorem State.reply_fieldW (s : State) (v : Word) : (s.reply v).fieldW = s.fieldW := rfl
@[simp] theorem State.reply_capTotal (s : State) (v : Word) :
    (s.reply v).capTotal = s.capTotal := rfl
@[simp] theorem State.reply_capData (s : State) (v : Word) : (s.reply v).capData = s.capData := rfl
@[simp] theorem State.reply_capEc (s : State) (v : Word) : (s.reply v).capEc = s.capEc := rfl
@[simp] theorem State.reply_capBlocks (s : State) (v : Word) :
    (s.reply v).capBlocks = s.capBlocks := rfl
@[simp] theorem State.reply_capChars (s : State) (v : Word) :
    (s.reply v).capChars = s.capChars := rfl
@[simp] theorem State.reply_side (s : State) (v : Word) : (s.reply v).side = s.side := rfl
@[simp] theorem State.reply_mem (s : State) (v : Word) : (s.reply v).mem = s.mem := rfl
@[simp] theorem State.reply_resetIn (s : State) (v : Word) : (s.reply v).resetIn = s.resetIn := rfl
@[simp] theorem State.reply_inputs (s : State) (v : Word) : (s.reply v).inputs = s.inputs := rfl
@[simp] theorem State.reply_replies (s : State) (v : Word) :
    (s.reply v).replies = s.replies ++ [v] := rfl
@[simp] theorem State.reply_epoch (s : State) (v : Word) : (s.reply v).epoch = s.epoch := rfl
@[simp] theorem State.reply_draws (s : State) (v : Word) : (s.reply v).draws = s.draws := rfl

/-! ## State.replyUnspecified -/

@[simp] theorem State.replyUnspecified_pending (s : State) :
    (s.replyUnspecified).pending = s.pending := rfl
@[simp] theorem State.replyUnspecified_done (s : State) : (s.replyUnspecified).done = s.done := rfl
@[simp] theorem State.replyUnspecified_err (s : State) : (s.replyUnspecified).err = s.err := rfl
@[simp] theorem State.replyUnspecified_haz (s : State) : (s.replyUnspecified).haz = s.haz := rfl
@[simp] theorem State.replyUnspecified_errCode (s : State) :
    (s.replyUnspecified).errCode = s.errCode := rfl
@[simp] theorem State.replyUnspecified_level (s : State) :
    (s.replyUnspecified).level = s.level := rfl
@[simp] theorem State.replyUnspecified_version (s : State) :
    (s.replyUnspecified).version = s.version := rfl
@[simp] theorem State.replyUnspecified_mode (s : State) : (s.replyUnspecified).mode = s.mode := rfl
@[simp] theorem State.replyUnspecified_textLen (s : State) :
    (s.replyUnspecified).textLen = s.textLen := rfl
@[simp] theorem State.replyUnspecified_bitLen (s : State) :
    (s.replyUnspecified).bitLen = s.bitLen := rfl
@[simp] theorem State.replyUnspecified_ecLen (s : State) :
    (s.replyUnspecified).ecLen = s.ecLen := rfl
@[simp] theorem State.replyUnspecified_finalLen (s : State) :
    (s.replyUnspecified).finalLen = s.finalLen := rfl
@[simp] theorem State.replyUnspecified_gfA (s : State) : (s.replyUnspecified).gfA = s.gfA := rfl
@[simp] theorem State.replyUnspecified_gfB (s : State) : (s.replyUnspecified).gfB = s.gfB := rfl
@[simp] theorem State.replyUnspecified_gfR (s : State) : (s.replyUnspecified).gfR = s.gfR := rfl
@[simp] theorem State.replyUnspecified_genDeg (s : State) :
    (s.replyUnspecified).genDeg = s.genDeg := rfl
@[simp] theorem State.replyUnspecified_genLen (s : State) :
    (s.replyUnspecified).genLen = s.genLen := rfl
@[simp] theorem State.replyUnspecified_fieldVal (s : State) :
    (s.replyUnspecified).fieldVal = s.fieldVal := rfl
@[simp] theorem State.replyUnspecified_fieldW (s : State) :
    (s.replyUnspecified).fieldW = s.fieldW := rfl
@[simp] theorem State.replyUnspecified_capTotal (s : State) :
    (s.replyUnspecified).capTotal = s.capTotal := rfl
@[simp] theorem State.replyUnspecified_capData (s : State) :
    (s.replyUnspecified).capData = s.capData := rfl
@[simp] theorem State.replyUnspecified_capEc (s : State) :
    (s.replyUnspecified).capEc = s.capEc := rfl
@[simp] theorem State.replyUnspecified_capBlocks (s : State) :
    (s.replyUnspecified).capBlocks = s.capBlocks := rfl
@[simp] theorem State.replyUnspecified_capChars (s : State) :
    (s.replyUnspecified).capChars = s.capChars := rfl
@[simp] theorem State.replyUnspecified_side (s : State) : (s.replyUnspecified).side = s.side := rfl
@[simp] theorem State.replyUnspecified_mem (s : State) : (s.replyUnspecified).mem = s.mem := rfl
@[simp] theorem State.replyUnspecified_resetIn (s : State) :
    (s.replyUnspecified).resetIn = s.resetIn := rfl
@[simp] theorem State.replyUnspecified_inputs (s : State) :
    (s.replyUnspecified).inputs = s.inputs := rfl
@[simp] theorem State.replyUnspecified_replies (s : State) :
    (s.replyUnspecified).replies = s.replies ++ [Config.unspecifiedRead s.draws] := rfl
@[simp] theorem State.replyUnspecified_epoch (s : State) :
    (s.replyUnspecified).epoch = s.epoch := rfl
@[simp] theorem State.replyUnspecified_draws (s : State) :
    (s.replyUnspecified).draws = s.draws + 1 := rfl

/-! ## State.writeBitbuf -/

@[simp] theorem State.writeBitbuf_pending (s : State) (bits : Bits) :
    (s.writeBitbuf bits).pending = s.pending := rfl
@[simp] theorem State.writeBitbuf_done (s : State) (bits : Bits) :
    (s.writeBitbuf bits).done = s.done := rfl
@[simp] theorem State.writeBitbuf_err (s : State) (bits : Bits) :
    (s.writeBitbuf bits).err = s.err := rfl
@[simp] theorem State.writeBitbuf_haz (s : State) (bits : Bits) :
    (s.writeBitbuf bits).haz = s.haz := rfl
@[simp] theorem State.writeBitbuf_errCode (s : State) (bits : Bits) :
    (s.writeBitbuf bits).errCode = s.errCode := rfl
@[simp] theorem State.writeBitbuf_level (s : State) (bits : Bits) :
    (s.writeBitbuf bits).level = s.level := rfl
@[simp] theorem State.writeBitbuf_version (s : State) (bits : Bits) :
    (s.writeBitbuf bits).version = s.version := rfl
@[simp] theorem State.writeBitbuf_mode (s : State) (bits : Bits) :
    (s.writeBitbuf bits).mode = s.mode := rfl
@[simp] theorem State.writeBitbuf_textLen (s : State) (bits : Bits) :
    (s.writeBitbuf bits).textLen = s.textLen := rfl
@[simp] theorem State.writeBitbuf_bitLen (s : State) (bits : Bits) :
    (s.writeBitbuf bits).bitLen = BitVec.ofNat 12 bits.length := rfl
@[simp] theorem State.writeBitbuf_ecLen (s : State) (bits : Bits) :
    (s.writeBitbuf bits).ecLen = s.ecLen := rfl
@[simp] theorem State.writeBitbuf_finalLen (s : State) (bits : Bits) :
    (s.writeBitbuf bits).finalLen = s.finalLen := rfl
@[simp] theorem State.writeBitbuf_gfA (s : State) (bits : Bits) :
    (s.writeBitbuf bits).gfA = s.gfA := rfl
@[simp] theorem State.writeBitbuf_gfB (s : State) (bits : Bits) :
    (s.writeBitbuf bits).gfB = s.gfB := rfl
@[simp] theorem State.writeBitbuf_gfR (s : State) (bits : Bits) :
    (s.writeBitbuf bits).gfR = s.gfR := rfl
@[simp] theorem State.writeBitbuf_genDeg (s : State) (bits : Bits) :
    (s.writeBitbuf bits).genDeg = s.genDeg := rfl
@[simp] theorem State.writeBitbuf_genLen (s : State) (bits : Bits) :
    (s.writeBitbuf bits).genLen = s.genLen := rfl
@[simp] theorem State.writeBitbuf_fieldVal (s : State) (bits : Bits) :
    (s.writeBitbuf bits).fieldVal = s.fieldVal := rfl
@[simp] theorem State.writeBitbuf_fieldW (s : State) (bits : Bits) :
    (s.writeBitbuf bits).fieldW = s.fieldW := rfl
@[simp] theorem State.writeBitbuf_capTotal (s : State) (bits : Bits) :
    (s.writeBitbuf bits).capTotal = s.capTotal := rfl
@[simp] theorem State.writeBitbuf_capData (s : State) (bits : Bits) :
    (s.writeBitbuf bits).capData = s.capData := rfl
@[simp] theorem State.writeBitbuf_capEc (s : State) (bits : Bits) :
    (s.writeBitbuf bits).capEc = s.capEc := rfl
@[simp] theorem State.writeBitbuf_capBlocks (s : State) (bits : Bits) :
    (s.writeBitbuf bits).capBlocks = s.capBlocks := rfl
@[simp] theorem State.writeBitbuf_capChars (s : State) (bits : Bits) :
    (s.writeBitbuf bits).capChars = s.capChars := rfl
@[simp] theorem State.writeBitbuf_side (s : State) (bits : Bits) :
    (s.writeBitbuf bits).side = s.side := rfl
@[simp] theorem State.writeBitbuf_mem (s : State) (bits : Bits) :
    (s.writeBitbuf bits).mem = s.mem.store bitbufWindow.base (packBits bits) := rfl
@[simp] theorem State.writeBitbuf_resetIn (s : State) (bits : Bits) :
    (s.writeBitbuf bits).resetIn = s.resetIn := rfl
@[simp] theorem State.writeBitbuf_inputs (s : State) (bits : Bits) :
    (s.writeBitbuf bits).inputs = s.inputs := rfl
@[simp] theorem State.writeBitbuf_replies (s : State) (bits : Bits) :
    (s.writeBitbuf bits).replies = s.replies := rfl
@[simp] theorem State.writeBitbuf_epoch (s : State) (bits : Bits) :
    (s.writeBitbuf bits).epoch = s.epoch := rfl
@[simp] theorem State.writeBitbuf_draws (s : State) (bits : Bits) :
    (s.writeBitbuf bits).draws = s.draws := rfl

/-! ## State.writeEcbuf -/

@[simp] theorem State.writeEcbuf_pending (s : State) (c : List Byte) :
    (s.writeEcbuf c).pending = s.pending := rfl
@[simp] theorem State.writeEcbuf_done (s : State) (c : List Byte) :
    (s.writeEcbuf c).done = s.done := rfl
@[simp] theorem State.writeEcbuf_err (s : State) (c : List Byte) :
    (s.writeEcbuf c).err = s.err := rfl
@[simp] theorem State.writeEcbuf_haz (s : State) (c : List Byte) :
    (s.writeEcbuf c).haz = s.haz := rfl
@[simp] theorem State.writeEcbuf_errCode (s : State) (c : List Byte) :
    (s.writeEcbuf c).errCode = s.errCode := rfl
@[simp] theorem State.writeEcbuf_level (s : State) (c : List Byte) :
    (s.writeEcbuf c).level = s.level := rfl
@[simp] theorem State.writeEcbuf_version (s : State) (c : List Byte) :
    (s.writeEcbuf c).version = s.version := rfl
@[simp] theorem State.writeEcbuf_mode (s : State) (c : List Byte) :
    (s.writeEcbuf c).mode = s.mode := rfl
@[simp] theorem State.writeEcbuf_textLen (s : State) (c : List Byte) :
    (s.writeEcbuf c).textLen = s.textLen := rfl
@[simp] theorem State.writeEcbuf_bitLen (s : State) (c : List Byte) :
    (s.writeEcbuf c).bitLen = s.bitLen := rfl
@[simp] theorem State.writeEcbuf_ecLen (s : State) (c : List Byte) :
    (s.writeEcbuf c).ecLen = BitVec.ofNat 6 c.length := rfl
@[simp] theorem State.writeEcbuf_finalLen (s : State) (c : List Byte) :
    (s.writeEcbuf c).finalLen = s.finalLen := rfl
@[simp] theorem State.writeEcbuf_gfA (s : State) (c : List Byte) :
    (s.writeEcbuf c).gfA = s.gfA := rfl
@[simp] theorem State.writeEcbuf_gfB (s : State) (c : List Byte) :
    (s.writeEcbuf c).gfB = s.gfB := rfl
@[simp] theorem State.writeEcbuf_gfR (s : State) (c : List Byte) :
    (s.writeEcbuf c).gfR = s.gfR := rfl
@[simp] theorem State.writeEcbuf_genDeg (s : State) (c : List Byte) :
    (s.writeEcbuf c).genDeg = s.genDeg := rfl
@[simp] theorem State.writeEcbuf_genLen (s : State) (c : List Byte) :
    (s.writeEcbuf c).genLen = s.genLen := rfl
@[simp] theorem State.writeEcbuf_fieldVal (s : State) (c : List Byte) :
    (s.writeEcbuf c).fieldVal = s.fieldVal := rfl
@[simp] theorem State.writeEcbuf_fieldW (s : State) (c : List Byte) :
    (s.writeEcbuf c).fieldW = s.fieldW := rfl
@[simp] theorem State.writeEcbuf_capTotal (s : State) (c : List Byte) :
    (s.writeEcbuf c).capTotal = s.capTotal := rfl
@[simp] theorem State.writeEcbuf_capData (s : State) (c : List Byte) :
    (s.writeEcbuf c).capData = s.capData := rfl
@[simp] theorem State.writeEcbuf_capEc (s : State) (c : List Byte) :
    (s.writeEcbuf c).capEc = s.capEc := rfl
@[simp] theorem State.writeEcbuf_capBlocks (s : State) (c : List Byte) :
    (s.writeEcbuf c).capBlocks = s.capBlocks := rfl
@[simp] theorem State.writeEcbuf_capChars (s : State) (c : List Byte) :
    (s.writeEcbuf c).capChars = s.capChars := rfl
@[simp] theorem State.writeEcbuf_side (s : State) (c : List Byte) :
    (s.writeEcbuf c).side = s.side := rfl
@[simp] theorem State.writeEcbuf_mem (s : State) (c : List Byte) :
    (s.writeEcbuf c).mem = s.mem.store ecbufWindow.base c := rfl
@[simp] theorem State.writeEcbuf_resetIn (s : State) (c : List Byte) :
    (s.writeEcbuf c).resetIn = s.resetIn := rfl
@[simp] theorem State.writeEcbuf_inputs (s : State) (c : List Byte) :
    (s.writeEcbuf c).inputs = s.inputs := rfl
@[simp] theorem State.writeEcbuf_replies (s : State) (c : List Byte) :
    (s.writeEcbuf c).replies = s.replies := rfl
@[simp] theorem State.writeEcbuf_epoch (s : State) (c : List Byte) :
    (s.writeEcbuf c).epoch = s.epoch := rfl
@[simp] theorem State.writeEcbuf_draws (s : State) (c : List Byte) :
    (s.writeEcbuf c).draws = s.draws := rfl

/-! ## State.writeFinal -/

@[simp] theorem State.writeFinal_pending (s : State) (f : List Byte) :
    (s.writeFinal f).pending = s.pending := rfl
@[simp] theorem State.writeFinal_done (s : State) (f : List Byte) :
    (s.writeFinal f).done = s.done := rfl
@[simp] theorem State.writeFinal_err (s : State) (f : List Byte) :
    (s.writeFinal f).err = s.err := rfl
@[simp] theorem State.writeFinal_haz (s : State) (f : List Byte) :
    (s.writeFinal f).haz = s.haz := rfl
@[simp] theorem State.writeFinal_errCode (s : State) (f : List Byte) :
    (s.writeFinal f).errCode = s.errCode := rfl
@[simp] theorem State.writeFinal_level (s : State) (f : List Byte) :
    (s.writeFinal f).level = s.level := rfl
@[simp] theorem State.writeFinal_version (s : State) (f : List Byte) :
    (s.writeFinal f).version = s.version := rfl
@[simp] theorem State.writeFinal_mode (s : State) (f : List Byte) :
    (s.writeFinal f).mode = s.mode := rfl
@[simp] theorem State.writeFinal_textLen (s : State) (f : List Byte) :
    (s.writeFinal f).textLen = s.textLen := rfl
@[simp] theorem State.writeFinal_bitLen (s : State) (f : List Byte) :
    (s.writeFinal f).bitLen = s.bitLen := rfl
@[simp] theorem State.writeFinal_ecLen (s : State) (f : List Byte) :
    (s.writeFinal f).ecLen = s.ecLen := rfl
@[simp] theorem State.writeFinal_finalLen (s : State) (f : List Byte) :
    (s.writeFinal f).finalLen = BitVec.ofNat 10 f.length := rfl
@[simp] theorem State.writeFinal_gfA (s : State) (f : List Byte) :
    (s.writeFinal f).gfA = s.gfA := rfl
@[simp] theorem State.writeFinal_gfB (s : State) (f : List Byte) :
    (s.writeFinal f).gfB = s.gfB := rfl
@[simp] theorem State.writeFinal_gfR (s : State) (f : List Byte) :
    (s.writeFinal f).gfR = s.gfR := rfl
@[simp] theorem State.writeFinal_genDeg (s : State) (f : List Byte) :
    (s.writeFinal f).genDeg = s.genDeg := rfl
@[simp] theorem State.writeFinal_genLen (s : State) (f : List Byte) :
    (s.writeFinal f).genLen = s.genLen := rfl
@[simp] theorem State.writeFinal_fieldVal (s : State) (f : List Byte) :
    (s.writeFinal f).fieldVal = s.fieldVal := rfl
@[simp] theorem State.writeFinal_fieldW (s : State) (f : List Byte) :
    (s.writeFinal f).fieldW = s.fieldW := rfl
@[simp] theorem State.writeFinal_capTotal (s : State) (f : List Byte) :
    (s.writeFinal f).capTotal = s.capTotal := rfl
@[simp] theorem State.writeFinal_capData (s : State) (f : List Byte) :
    (s.writeFinal f).capData = s.capData := rfl
@[simp] theorem State.writeFinal_capEc (s : State) (f : List Byte) :
    (s.writeFinal f).capEc = s.capEc := rfl
@[simp] theorem State.writeFinal_capBlocks (s : State) (f : List Byte) :
    (s.writeFinal f).capBlocks = s.capBlocks := rfl
@[simp] theorem State.writeFinal_capChars (s : State) (f : List Byte) :
    (s.writeFinal f).capChars = s.capChars := rfl
@[simp] theorem State.writeFinal_side (s : State) (f : List Byte) :
    (s.writeFinal f).side = s.side := rfl
@[simp] theorem State.writeFinal_mem (s : State) (f : List Byte) :
    (s.writeFinal f).mem = s.mem.store finalWindow.base f := rfl
@[simp] theorem State.writeFinal_resetIn (s : State) (f : List Byte) :
    (s.writeFinal f).resetIn = s.resetIn := rfl
@[simp] theorem State.writeFinal_inputs (s : State) (f : List Byte) :
    (s.writeFinal f).inputs = s.inputs := rfl
@[simp] theorem State.writeFinal_replies (s : State) (f : List Byte) :
    (s.writeFinal f).replies = s.replies := rfl
@[simp] theorem State.writeFinal_epoch (s : State) (f : List Byte) :
    (s.writeFinal f).epoch = s.epoch := rfl
@[simp] theorem State.writeFinal_draws (s : State) (f : List Byte) :
    (s.writeFinal f).draws = s.draws := rfl

/-! ## State.writeMatrix -/

@[simp] theorem State.writeMatrix_pending (s : State) (v : Nat) (bits : Bits) :
    (s.writeMatrix v bits).pending = s.pending := rfl
@[simp] theorem State.writeMatrix_done (s : State) (v : Nat) (bits : Bits) :
    (s.writeMatrix v bits).done = s.done := rfl
@[simp] theorem State.writeMatrix_err (s : State) (v : Nat) (bits : Bits) :
    (s.writeMatrix v bits).err = s.err := rfl
@[simp] theorem State.writeMatrix_haz (s : State) (v : Nat) (bits : Bits) :
    (s.writeMatrix v bits).haz = s.haz := rfl
@[simp] theorem State.writeMatrix_errCode (s : State) (v : Nat) (bits : Bits) :
    (s.writeMatrix v bits).errCode = s.errCode := rfl
@[simp] theorem State.writeMatrix_level (s : State) (v : Nat) (bits : Bits) :
    (s.writeMatrix v bits).level = s.level := rfl
@[simp] theorem State.writeMatrix_version (s : State) (v : Nat) (bits : Bits) :
    (s.writeMatrix v bits).version = s.version := rfl
@[simp] theorem State.writeMatrix_mode (s : State) (v : Nat) (bits : Bits) :
    (s.writeMatrix v bits).mode = s.mode := rfl
@[simp] theorem State.writeMatrix_textLen (s : State) (v : Nat) (bits : Bits) :
    (s.writeMatrix v bits).textLen = s.textLen := rfl
@[simp] theorem State.writeMatrix_bitLen (s : State) (v : Nat) (bits : Bits) :
    (s.writeMatrix v bits).bitLen = s.bitLen := rfl
@[simp] theorem State.writeMatrix_ecLen (s : State) (v : Nat) (bits : Bits) :
    (s.writeMatrix v bits).ecLen = s.ecLen := rfl
@[simp] theorem State.writeMatrix_finalLen (s : State) (v : Nat) (bits : Bits) :
    (s.writeMatrix v bits).finalLen = s.finalLen := rfl
@[simp] theorem State.writeMatrix_gfA (s : State) (v : Nat) (bits : Bits) :
    (s.writeMatrix v bits).gfA = s.gfA := rfl
@[simp] theorem State.writeMatrix_gfB (s : State) (v : Nat) (bits : Bits) :
    (s.writeMatrix v bits).gfB = s.gfB := rfl
@[simp] theorem State.writeMatrix_gfR (s : State) (v : Nat) (bits : Bits) :
    (s.writeMatrix v bits).gfR = s.gfR := rfl
@[simp] theorem State.writeMatrix_genDeg (s : State) (v : Nat) (bits : Bits) :
    (s.writeMatrix v bits).genDeg = s.genDeg := rfl
@[simp] theorem State.writeMatrix_genLen (s : State) (v : Nat) (bits : Bits) :
    (s.writeMatrix v bits).genLen = s.genLen := rfl
@[simp] theorem State.writeMatrix_fieldVal (s : State) (v : Nat) (bits : Bits) :
    (s.writeMatrix v bits).fieldVal = s.fieldVal := rfl
@[simp] theorem State.writeMatrix_fieldW (s : State) (v : Nat) (bits : Bits) :
    (s.writeMatrix v bits).fieldW = s.fieldW := rfl
@[simp] theorem State.writeMatrix_capTotal (s : State) (v : Nat) (bits : Bits) :
    (s.writeMatrix v bits).capTotal = s.capTotal := rfl
@[simp] theorem State.writeMatrix_capData (s : State) (v : Nat) (bits : Bits) :
    (s.writeMatrix v bits).capData = s.capData := rfl
@[simp] theorem State.writeMatrix_capEc (s : State) (v : Nat) (bits : Bits) :
    (s.writeMatrix v bits).capEc = s.capEc := rfl
@[simp] theorem State.writeMatrix_capBlocks (s : State) (v : Nat) (bits : Bits) :
    (s.writeMatrix v bits).capBlocks = s.capBlocks := rfl
@[simp] theorem State.writeMatrix_capChars (s : State) (v : Nat) (bits : Bits) :
    (s.writeMatrix v bits).capChars = s.capChars := rfl
@[simp] theorem State.writeMatrix_side (s : State) (v : Nat) (bits : Bits) :
    (s.writeMatrix v bits).side = BitVec.ofNat 8 (sideOf v) := rfl
@[simp] theorem State.writeMatrix_mem (s : State) (v : Nat) (bits : Bits) :
    (s.writeMatrix v bits).mem = s.mem.store matrixWindow.base
      (matrixBytes (patternDark (sideOf v) ++ dataDark (placementOrder (sideOf v)) bits)) := rfl
@[simp] theorem State.writeMatrix_resetIn (s : State) (v : Nat) (bits : Bits) :
    (s.writeMatrix v bits).resetIn = s.resetIn := rfl
@[simp] theorem State.writeMatrix_inputs (s : State) (v : Nat) (bits : Bits) :
    (s.writeMatrix v bits).inputs = s.inputs := rfl
@[simp] theorem State.writeMatrix_replies (s : State) (v : Nat) (bits : Bits) :
    (s.writeMatrix v bits).replies = s.replies := rfl
@[simp] theorem State.writeMatrix_epoch (s : State) (v : Nat) (bits : Bits) :
    (s.writeMatrix v bits).epoch = s.epoch := rfl
@[simp] theorem State.writeMatrix_draws (s : State) (v : Nat) (bits : Bits) :
    (s.writeMatrix v bits).draws = s.draws := rfl

end Sys2Proof.Machine
end

