-- ==== Sys2Proof/Laws/Memory.lean ====
section
/-! SUPPORT. What the memory operations do: a read after a store, the canonical form, and the same said
of the state's buffer bytes. -/

namespace Sys2Proof.Machine

/-! ## Lookup -/

theorem Memory.get?_append (m n : Memory) (k : Nat) :
    Memory.get? (m ++ n) k = (Memory.get? m k).or (Memory.get? n k) := by
  induction m with
  | nil => simp [Memory.get?]
  | cons c m ih =>
    obtain ⟨a, b⟩ := c
    by_cases h : a = k <;> simp [Memory.get?, h, ih]

/-- A lookup passes through a filter on addresses that lets the address through. -/
theorem Memory.get?_filter (p : Nat → Bool) (m : Memory) (k : Nat) :
    Memory.get? (m.filter (fun c => p c.1)) k = if p k then Memory.get? m k else none := by
  induction m with
  | nil => simp [Memory.get?]
  | cons c m ih =>
    obtain ⟨a, b⟩ := c
    by_cases hp : p a = true <;> by_cases h : a = k
    · subst h; simp [Memory.get?, hp]
    · simp [Memory.get?, hp, h, ih]
    · subst h; simp [hp, ih]
    · simp [Memory.get?, hp, h, ih]

theorem get?_cellsFrom (bs : List Byte) (a k : Nat) :
    Memory.get? (cellsFrom a bs) k = if a ≤ k then bs[k - a]? else none := by
  induction bs generalizing a with
  | nil => simp [cellsFrom, Memory.get?]
  | cons b bs ih =>
    rw [cellsFrom, Memory.get?, ih]
    by_cases h : a = k
    · subst h; simp
    · by_cases h2 : a ≤ k
      · obtain ⟨d, rfl⟩ : ∃ d, k = a + (d + 1) := ⟨k - a - 1, by omega⟩
        have e1 : a + (d + 1) - (a + 1) = d := by omega
        have e2 : a + (d + 1) - a = d + 1 := by omega
        simp [e1, e2]
      · simp [h, h2]; omega

/-- Read after store: the stored byte in the stored range, the old one elsewhere. -/
theorem Memory.get?_store (m : Memory) (a : Nat) (bs : List Byte) (k : Nat) :
    (m.store a bs).get? k = if a ≤ k ∧ k < a + bs.length then bs[k - a]? else m.get? k := by
  have lo := Memory.get?_filter (fun x => decide (x < a)) m k
  have hi := Memory.get?_filter (fun x => decide (a + bs.length ≤ x)) m k
  rw [Memory.store, Memory.get?_append, Memory.get?_append, lo, hi, get?_cellsFrom]
  by_cases h1 : a ≤ k
  · have n1 : ¬ k < a := by omega
    by_cases h2 : k < a + bs.length
    · have n2 : ¬ a + bs.length ≤ k := by omega
      have n3 : k - a < bs.length := by omega
      simp [h1, h2, n1, n2, n3]
    · have n2 : a + bs.length ≤ k := by omega
      have n3 : bs.length ≤ k - a := by omega
      simp [h1, h2, n1, n2, n3]
  · have n1 : k < a := by omega
    have n2 : ¬ a + bs.length ≤ k := by omega
    simp [h1, n1, n2]

/-! ## The canonical form -/

theorem Memory.sorted_iff_pairwise (m : Memory) :
    m.sorted = true ↔ m.Pairwise (fun c d => c.1 < d.1) := by
  induction m with
  | nil => simp [Memory.sorted]
  | cons c m ih =>
    cases m with
    | nil => simp [Memory.sorted]
    | cons d rest =>
      rw [Memory.sorted, Bool.and_eq_true, ih, decide_eq_true_eq,
        List.pairwise_cons (a := c) (l := d :: rest)]
      constructor
      · rintro ⟨h, hp⟩
        refine ⟨fun x hx => ?_, hp⟩
        rcases List.mem_cons.1 hx with rfl | hx
        · exact h
        · exact Nat.lt_trans h ((List.pairwise_cons.1 hp).1 x hx)
      · rintro ⟨h, hp⟩
        exact ⟨h d (by simp), hp⟩

theorem mem_cellsFrom {bs : List Byte} {a : Nat} {c : Host.Cell} (h : c ∈ cellsFrom a bs) :
    a ≤ c.1 ∧ c.1 < a + bs.length := by
  induction bs generalizing a with
  | nil => simp [cellsFrom] at h
  | cons b bs ih =>
    rcases List.mem_cons.1 h with rfl | h
    · simp
    · have := ih h
      simp only [List.length_cons]
      omega

theorem pairwise_cellsFrom (bs : List Byte) (a : Nat) :
    (cellsFrom a bs).Pairwise (fun c d => c.1 < d.1) := by
  induction bs generalizing a with
  | nil => simp [cellsFrom]
  | cons b bs ih =>
    refine List.pairwise_cons.2 ⟨fun c hc => ?_, ih (a + 1)⟩
    have := (mem_cellsFrom hc).1
    simp only
    omega

/-- A store keeps the addresses strictly rising. -/
theorem Memory.sorted_store {m : Memory} (h : m.sorted = true) (a : Nat) (bs : List Byte) :
    (m.store a bs).sorted = true := by
  rw [Memory.sorted_iff_pairwise] at h ⊢
  have key : ∀ c ∈ m.filter (fun c => decide (c.1 < a)), c.1 < a := by
    intro c hc; simpa using (List.mem_filter.1 hc).2
  have key2 : ∀ c ∈ m.filter (fun c => decide (a + bs.length ≤ c.1)), a + bs.length ≤ c.1 := by
    intro c hc; simpa using (List.mem_filter.1 hc).2
  refine List.pairwise_append.2 ⟨List.pairwise_append.2 ⟨h.filter _, pairwise_cellsFrom bs a, ?_⟩,
    h.filter _, ?_⟩
  · intro c hc d hd
    exact Nat.lt_of_lt_of_le (key c hc) (mem_cellsFrom hd).1
  · intro c hc d hd
    have := key2 d hd
    rcases List.mem_append.1 hc with hc | hc
    · have := key c hc; omega
    · have := (mem_cellsFrom hc).2; omega

/-- A store inside one buffer keeps the canonical form. -/
theorem Memory.wf_store {m : Memory} (h : m.wf = true) {w : Window} (hw : w ∈ windows) {a : Nat}
    {bs : List Byte} (ha : w.base ≤ a) (hb : a + bs.length ≤ w.base + w.size) :
    (m.store a bs).wf = true := by
  simp only [Memory.wf, Bool.and_eq_true, List.all_eq_true] at h ⊢
  refine ⟨Memory.sorted_store h.1 a bs, fun c hc => ?_⟩
  simp only [Memory.store, List.mem_append, List.mem_filter] at hc
  rcases hc with (hc | hc) | hc
  · exact h.2 c hc.1
  · have hr := mem_cellsFrom hc
    simp only [windowAt, List.find?_isSome]
    exact ⟨w, hw, by simp only [Window.covers, Bool.and_eq_true, decide_eq_true_eq]; omega⟩
  · exact h.2 c hc.1

/-- The memory of the reset state is in canonical form. -/
theorem State.reset_mem_wf : State.reset.mem.wf = true := by decide

/-! ## Buffer bytes of a state -/

/-- readByte depends on the memory and the epoch only. -/
theorem State.readByte_congr {s t : State} (hm : t.mem = s.mem) (he : t.epoch = s.epoch) (k : Nat) :
    t.readByte k = s.readByte k := by
  simp only [State.readByte, hm, he]

/-- A byte after a store: the stored byte on the bits that exist, or the old byte. -/
theorem State.readByte_storeBytes (s : State) (a : Nat) (bs : List Byte) (k : Nat) :
    (s.storeBytes a bs).readByte k =
      if a ≤ k ∧ k < a + bs.length then bs.getD (k - a) 0 &&& cellMask k else s.readByte k := by
  simp only [State.readByte, State.storeBytes, Memory.get?_store]
  by_cases h : a ≤ k ∧ k < a + bs.length
  · have n : k - a < bs.length := by omega
    simp [h, n]
  · simp [h]

/-- A store leaves every byte outside its range alone. -/
theorem State.readByte_storeBytes_of_not_mem (s : State) {a : Nat} {bs : List Byte} {k : Nat}
    (h : ¬(a ≤ k ∧ k < a + bs.length)) : (s.storeBytes a bs).readByte k = s.readByte k := by
  rw [State.readByte_storeBytes, if_neg h]

/-- The addresses a window covers. -/
theorem Window.covers_iff (w : Window) (a : Nat) :
    w.covers a = true ↔ w.base ≤ a ∧ a < w.base + w.size := by
  simp [Window.covers]

/-- Outside MATRIX every bit of a byte exists. -/
theorem cellMask_of_not_matrix {k : Nat} (h : ¬(0x800 ≤ k ∧ k < 0x908)) : cellMask k = 0xFF#8 := by
  have : matrixWindow.covers k = false := by
    rw [Bool.eq_false_iff, ne_eq, Window.covers_iff]
    exact h
  simp [cellMask, this]

@[simp] theorem State.readBytes_length (s : State) (a n : Nat) : (s.readBytes a n).length = n := by
  simp [State.readBytes]

/-- Byte k of a run of buffer bytes. -/
theorem State.readBytes_getElem? (s : State) (a n k : Nat) :
    (s.readBytes a n)[k]? = if k < n then some (s.readByte (a + k)) else none := by
  by_cases h : k < n <;> simp [State.readBytes, h]

/-- Bytes stored outside MATRIX read back as they were stored. -/
theorem State.readBytes_storeBytes (s : State) (a : Nat) (bs : List Byte)
    (h : a + bs.length ≤ 0x800 ∨ 0x908 ≤ a) : (s.storeBytes a bs).readBytes a bs.length = bs := by
  apply List.ext_getElem?
  intro k
  rw [State.readBytes_getElem?]
  by_cases hk : k < bs.length
  · have n : ¬(0x800 ≤ a + k ∧ a + k < 0x908) := by omega
    rw [if_pos hk, State.readByte_storeBytes, if_pos ⟨by omega, by omega⟩, cellMask_of_not_matrix n,
      Nat.add_sub_cancel_left]
    have : bs[k] &&& 0xFF#8 = bs[k] := BitVec.and_allOnes
    simp [hk, this]
  · simp [hk]

end Sys2Proof.Machine
end

