-- ==== Sys2Proof/Laws/Operations.lean ====
section
/-! SUPPORT. What the shared operations do: completion, the operands, the registers through the named
updates. -/

namespace Sys2Proof.Machine

/-! ## Completion -/

@[simp] theorem complete_ok (s t : State) : complete s (.ok t) = .next (t.finish none) := rfl

@[simp] theorem complete_error (s : State) (e : ErrCode) :
    complete s (.error e) = .next (s.finish (some e)) := rfl

/-- Everything a completion can do: the writes of a success, or STATUS alone. -/
theorem complete_cases {s t : State} {r : Except ErrCode State} (h : complete s r = .next t) :
    (∃ u, r = .ok u ∧ t = u.finish none) ∨ (∃ e, r = .error e ∧ t = s.finish (some e)) := by
  cases r with
  | ok u => exact .inl ⟨u, rfl, by simpa using h.symm⟩
  | error e => exact .inr ⟨e, rfl, by simpa using h.symm⟩

/-- A completion always answers a next state. -/
theorem complete_answers (s : State) (r : Except ErrCode State) : ∃ t, complete s r = .next t := by
  cases r <;> exact ⟨_, rfl⟩

/-- Every command is a completion of what its rule computes. -/
theorem exec_is_complete (i : Instr) (s : State) : ∃ r, exec i s = complete s r := by
  cases i <;>
    simp only [exec, execNop, execSelectMode, execSelectVersion, execCapLookup, execModeInd,
      execCountInd, execBuildBitstream, execBuildPadded, execGfLog, execGfExp, execGfMula, execGfXor,
      execGfMul, execGenPoly, execRsEncode, execAssemble, execPlaceMatrix, execEncode,
      execSoftReset] <;>
    exact ⟨_, rfl⟩

/-- Every command answers a next state: no fault, no refusal (60_exceptions.md R274). -/
theorem exec_answers (i : Instr) (s : State) : ∃ t, exec i s = .next t := by
  obtain ⟨r, h⟩ := exec_is_complete i s
  exact h ▸ complete_answers s r

/-- No error has code 0, and no code is above 5. -/
theorem ErrCode.code_range (e : ErrCode) : e.code ≠ 0 ∧ e.code.toNat ≤ 5 := by
  cases e <;> decide

/-- A completed STATUS is legal, whatever the state before (10_state.md R23). -/
theorem State.finish_statusLegal (s : State) (e : Option ErrCode) :
    (s.finish e).statusLegal = true := by
  cases e with
  | none => simp [State.statusLegal, State.busy]
  | some c => cases c <;> simp [State.statusLegal, State.busy, ErrCode.code]

/-! ## Registers -/

/-- A completion changes no register but STATUS. -/
theorem State.readReg_finish (s : State) (e : Option ErrCode) {r : Reg} (h : r ≠ .status) :
    (s.finish e).readReg r = s.readReg r := by
  cases r <;> first | rfl | exact absurd rfl h

/-- A store into a buffer changes no register. -/
@[simp] theorem State.readReg_storeBytes (s : State) (a : Nat) (bs : List Byte) (r : Reg) :
    (s.storeBytes a bs).readReg r = s.readReg r := by
  cases r <;> rfl

@[simp] theorem State.statusWord_storeBytes (s : State) (a : Nat) (bs : List Byte) :
    (s.storeBytes a bs).statusWord = s.statusWord := rfl

@[simp] theorem State.readByte_finish (s : State) (e : Option ErrCode) (k : Nat) :
    (s.finish e).readByte k = s.readByte k := rfl

@[simp] theorem State.readByte_accept (s : State) (w : Word) (k : Nat) :
    (s.accept w).readByte k = s.readByte k := rfl

@[simp] theorem State.readByte_clearRegs (s : State) (k : Nat) :
    s.clearRegs.readByte k = s.readByte k := rfl

/-- A cleared register reads 0 (44_control.md R241). -/
theorem State.readReg_clearRegs (s : State) {r : Reg} (h : r ≠ .id) : s.clearRegs.readReg r = 0 := by
  cases r <;> first
    | exact absurd rfl h
    | simp [State.readReg, State.statusWord, State.busy]

/-! ## Operands -/

/-- The text operand of a legal length. -/
theorem textOperand_ok {s : State} (h : s.textLen.toNat ≤ 256) :
    textOperand s = .ok (s.readBytes textWindow.base s.textLen.toNat) := by
  unfold textOperand
  exact if_neg (by unfold Config.textMax; omega)

/-- The text operand of an illegal length. -/
theorem textOperand_error {s : State} (h : 256 < s.textLen.toNat) :
    textOperand s = .error .invalidArgument := by
  unfold textOperand
  exact if_pos h

/-- The codeword operand of a legal length. -/
theorem codewordOperand_ok {s : State} (h : s.bitLen.toNat ≤ 2048) (h8 : s.bitLen.toNat % 8 = 0) :
    codewordOperand s = .ok (s.readBytes bitbufWindow.base (s.bitLen.toNat / 8)) := by
  unfold codewordOperand
  exact if_neg (by unfold Config.bitbufBits; omega)

/-- The codeword operand of an illegal length. -/
theorem codewordOperand_error {s : State} (h : 2048 < s.bitLen.toNat ∨ s.bitLen.toNat % 8 ≠ 0) :
    codewordOperand s = .error .invalidArgument := by
  unfold codewordOperand
  exact if_pos h

/-- The capacity ROM has a row exactly for versions 1 to 4 (41_bitstream.md R130). -/
theorem capRow_isSome (v : Nat) (l : Level) : (capRow v l).isSome = true ↔ 1 ≤ v ∧ v ≤ 4 := by
  rcases v with _ | _ | _ | _ | _ | v <;> cases l <;> simp [capRow]

/-- A selected version is one of 1 to 4. -/
theorem smallestVersion_range {t : List Byte} {l : Level} {v : Nat}
    (h : smallestVersion t l = some v) : 1 ≤ v ∧ v ≤ 4 := by
  have hm := List.mem_of_find?_eq_some h
  simp only [Config.capVersions, List.mem_cons, List.not_mem_nil, or_false] at hm
  omega

/-- Selection never gives Kanji (10_state.md R27). -/
theorem selectMode_ne_kanji (t : List Byte) : selectMode t ≠ .kanji := by
  unfold selectMode
  split
  · simp
  · split <;> simp

/-! ## Lengths -/

@[simp] theorem packBytes_length (n : Nat) (s : Bits) : (packBytes n s).length = n := by
  induction n generalizing s with
  | zero => rfl
  | succ n ih => simp [packBytes, ih]

@[simp] theorem packBits_length (s : Bits) : (packBits s).length = (s.length + 7) / 8 := by
  simp [packBits]

@[simp] theorem bin_length (w v : Nat) : (bin w v).length = max w (bitlen v) := by
  simp [bin]

/-- The eight bits of a byte are its numeral padded to eight bits (00_scope.md R8). -/
theorem bin8_eq_bin (b : Byte) : bin8 b = bin 8 b.toNat := by
  revert b; decide +kernel

@[simp] theorem bitsOfBytes_length (bs : List Byte) : (bitsOfBytes bs).length = 8 * bs.length := by
  induction bs with
  | nil => rfl
  | cons b bs ih =>
    have : (bitsOfBytes (b :: bs)).length = 8 + (bitsOfBytes bs).length := by
      simp [bitsOfBytes, bin8]
    rw [this, ih, List.length_cons]
    omega

theorem xorTerms_length (p q : List Byte) : (xorTerms p q).length = max p.length q.length := by
  induction p generalizing q with
  | nil => simp [xorTerms]
  | cons x p ih =>
    cases q with
    | nil => simp [xorTerms]
    | cons y q => simp [xorTerms, ih]

@[simp] theorem genCoeffs_length (e : Nat) : (genCoeffs e).length = e + 1 := by
  induction e with
  | zero => rfl
  | succ e ih => simp [genCoeffs, xorTerms_length, ih]

@[simp] theorem genAlpha_length (e : Nat) : (genAlpha e).length = e + 1 := by
  simp [genAlpha]

theorem matrixBytes_length (dark : List (Nat × Nat)) : (matrixBytes dark).length = 264 := by
  simp [matrixBytes, List.length_flatMap, Config.storeSide]

end Sys2Proof.Machine
end

