-- ==== Sys2Proof/Laws/Step.lean ====
section
/-! SUPPORT. Everything a step can do, once. -/

namespace Sys2Proof.Machine

/-- Which agent moves, said by the state (60_exceptions.md R264, R266). -/
theorem State.turn_cases (s : State) :
    (∃ w, s.turn = .engine w ∧ s.pending = some w ∧ s.resetIn = false) ∨
    (∃ e rest, s.turn = .host e.op rest ∧ s.inputs = e :: rest ∧
      (s.pending = none ∨ s.resetIn = true ∨ e.inWindow = true)) ∨
    (s.turn = .idle ∧ s.inputs = [] ∧ (s.pending = none ∨ s.resetIn = true)) := by
  cases hr : s.resetIn <;> cases hp : s.pending <;> cases hi : s.inputs with
  | nil => simp [State.turn, hr, hp, hi]
  | cons e rest =>
    cases hw : e.inWindow <;> simp [State.turn, hr, hp, hi, hw]

/-- Everything a step can do: the Engine completes the accepted word, the outside world's next event
happens, or nothing. -/
theorem step_cases {s t : State} (h : step s = .next t) :
    (∃ w, s.turn = .engine w ∧ s.pending = some w ∧ s.resetIn = false ∧ engineStep s w = .next t) ∨
    (∃ e rest, s.turn = .host e.op rest ∧ s.inputs = e :: rest ∧
      t = busStep { s with inputs := rest } e.op) ∨
    (s.turn = .idle ∧ t = s) := by
  rcases s.turn_cases with ⟨w, ht, hp, hr⟩ | ⟨e, rest, ht, hi, _⟩ | ⟨ht, _, _⟩
  · exact .inl ⟨w, ht, hp, hr, by simpa [step, agentStep, ht] using h⟩
  · exact .inr (.inl ⟨e, rest, ht, hi, by simpa [step, agentStep, ht] using h.symm⟩)
  · exact .inr (.inr ⟨ht, by simpa [step, agentStep, ht] using h.symm⟩)

/-- Everything the Engine step can do: a command's rule, or IllegalCommand. -/
theorem engineStep_cases {s t : State} {w : Word} (h : engineStep s w = .next t) :
    (∃ i, decode w = .command i ∧ exec i s = .next t) ∨
    (∃ why, decode w = .illegal why ∧ t = s.finish (some .illegalCommand)) := by
  unfold engineStep at h
  split at h
  · next i hi => exact .inl ⟨i, hi, h⟩
  · next why hi => exact .inr ⟨why, hi, by simpa using h.symm⟩

/-- The Engine step is a completion. -/
theorem engineStep_is_complete (s : State) (w : Word) : ∃ r, engineStep s w = complete s r := by
  unfold engineStep
  split
  · exact exec_is_complete _ s
  · exact ⟨_, rfl⟩

/-- A bus write in a BUSY window (70_reset_and_hazards.md R301). -/
theorem busWrite_of_busy {s : State} (hb : s.busy = true) (hr : s.resetIn = false) (a : Addr)
    (v : Word) : busWrite s a v = { s with haz := true } := by
  simp [busWrite, hb, hr]

/-- A bus write while idle. -/
theorem busWrite_of_idle {s : State} (hb : s.pending = none) (hr : s.resetIn = false) (a : Addr)
    (v : Word) : busWrite s a v = s.writeWord (wordAddress a) v := by
  simp [busWrite, State.busy, hb, hr]

/-- A bus read while idle. -/
theorem busRead_of_idle {s : State} (hb : s.pending = none) (hr : s.resetIn = false) (a : Addr) :
    busRead s a = s.reply (s.readWord (wordAddress a)) := by
  simp [busRead, State.busy, hb, hr]

/-- Everything a bus read can do: append one answer and perhaps count a draw (20_memory.md R66). -/
theorem busRead_cases (s : State) (a : Addr) :
    (∃ v, busRead s a = s.reply v) ∨ busRead s a = s.replyUnspecified := by
  simp only [busRead]
  split
  · exact .inr rfl
  · split
    · split
      · exact .inl ⟨_, rfl⟩
      · exact .inl ⟨_, rfl⟩
      · exact .inr rfl
    · exact .inl ⟨_, rfl⟩

end Sys2Proof.Machine
end

