-- ==== Sys2Proof/Laws/PerInstr.lean ====
section
/-! SUPPORT. The families of statements made for every instruction, one lemma per constructor. -/

namespace Sys2Proof.Laws.WordFormat

open Sys2Proof

/-- The command word of an instruction has the form of a command word, its opcode fits the OPCODE field,
and the instruction is well formed (30_encoding.md R80, R82). -/
def Statement (i : Instr) : Prop :=
  WellFormed.word (encode i) = true ∧ (encode i).toNat = opcode i ∧ opcode i < 256 ∧
    i.wellFormed = true

theorem nop : Statement .nop := by unfold Statement; decide
theorem selectMode : Statement .selectMode := by unfold Statement; decide
theorem selectVersion : Statement .selectVersion := by unfold Statement; decide
theorem capLookup : Statement .capLookup := by unfold Statement; decide
theorem modeInd : Statement .modeInd := by unfold Statement; decide
theorem countInd : Statement .countInd := by unfold Statement; decide
theorem buildBitstream : Statement .buildBitstream := by unfold Statement; decide
theorem buildPadded : Statement .buildPadded := by unfold Statement; decide
theorem gfLog : Statement .gfLog := by unfold Statement; decide
theorem gfExp : Statement .gfExp := by unfold Statement; decide
theorem gfMula : Statement .gfMula := by unfold Statement; decide
theorem gfXor : Statement .gfXor := by unfold Statement; decide
theorem gfMul : Statement .gfMul := by unfold Statement; decide
theorem genPoly : Statement .genPoly := by unfold Statement; decide
theorem rsEncode : Statement .rsEncode := by unfold Statement; decide
theorem assemble : Statement .assemble := by unfold Statement; decide
theorem placeMatrix : Statement .placeMatrix := by unfold Statement; decide
theorem encode : Statement .encode := by unfold Statement; decide
theorem softReset : Statement .softReset := by unfold Statement; decide

end Sys2Proof.Laws.WordFormat
end

