-- ==== Sys2Proof/Tests/Slice0.lean ====
section
/-! SUPPORT. Tests of one step each, their expected results from the vectors of 95_test_vectors.md, and a
witness for the hypotheses of every statement that has some. -/

namespace Sys2Proof.Tests

open Sys2Proof Sys2Proof.Machine

-- The tests are evaluated one after another, so that they do not ask for a thread each.
set_option Elab.async false

/-! ## Helpers -/

/-- The reset state with a text and a level. -/
def withText (t : List Byte) (level : BitVec 2) : State :=
  { State.reset.storeBytes 0x100 t with textLen := BitVec.ofNat 9 t.length, level := level }

/-- The reset state with codewords in BITBUF. -/
def withData (d : List Byte) (version : BitVec 6) (level : BitVec 2) : State :=
  { State.reset.storeBytes 0x200 d with
    bitLen := BitVec.ofNat 12 (8 * d.length), version := version, level := level }

/-- What a check says of the state a command ends in, false if it does not answer one. -/
def after (i : Instr) (s : State) (check : State → Bool) : Bool :=
  match exec i s with
  | .next t => check t
  | _ => false

/-- The STATUS word is v. -/
def statusIs (v : Word) (t : State) : Bool := t.statusWord == v

/-- "HELLO WORLD" in ASCII. -/
def hello : List Byte := [0x48, 0x45, 0x4C, 0x4C, 0x4F, 0x20, 0x57, 0x4F, 0x52, 0x4C, 0x44]

/-- The data codewords of V-L2-54. -/
def helloData : List Byte := [32, 91, 11, 120, 209, 114, 220, 77, 67, 64, 236, 17, 236, 17, 236, 17]

/-- The EC codewords of V-L1-09. -/
def helloEc : List Byte := [196, 35, 39, 119, 235, 215, 231, 226, 93, 23]

/-! ## Well-formed words: an ill-formed word for each check (30_encoding.md R82) -/

theorem test_wellformed_refuses_reserved_bits :
    WellFormed.reservedClear 0x101#32 = false ∧ WellFormed.word 0x101#32 = false := by decide

theorem test_wellformed_refuses_unassigned_opcode :
    [0x08, 0x0F, 0x15, 0x17, 0x1B, 0x1F, 0x21, 0x2F, 0x31, 0xFE].all
      (fun n => !WellFormed.opcodeAssigned (BitVec.ofNat 32 n)) = true := by decide

theorem test_wellformed_accepts_assigned :
    [0x00, 0x07, 0x10, 0x14, 0x18, 0x1A, 0x20, 0x30, 0xFF].all
      (fun n => WellFormed.word (BitVec.ofNat 32 n)) = true := by decide

/-! ## Decoding: every word of the opcode map, written out from 30_encoding.md R83 -/

theorem test_decode_nop : decode 0x00000000#32 = .command .nop := by decide
theorem test_decode_select_mode : decode 0x00000001#32 = .command .selectMode := by decide
theorem test_decode_select_version : decode 0x00000002#32 = .command .selectVersion := by decide
theorem test_decode_cap_lookup : decode 0x00000003#32 = .command .capLookup := by decide
theorem test_decode_mode_ind : decode 0x00000004#32 = .command .modeInd := by decide
theorem test_decode_count_ind : decode 0x00000005#32 = .command .countInd := by decide
theorem test_decode_build_bitstream : decode 0x00000006#32 = .command .buildBitstream := by decide
theorem test_decode_build_padded : decode 0x00000007#32 = .command .buildPadded := by decide
theorem test_decode_gf_log : decode 0x00000010#32 = .command .gfLog := by decide
theorem test_decode_gf_exp : decode 0x00000011#32 = .command .gfExp := by decide
theorem test_decode_gf_mula : decode 0x00000012#32 = .command .gfMula := by decide
theorem test_decode_gf_xor : decode 0x00000013#32 = .command .gfXor := by decide
theorem test_decode_gf_mul : decode 0x00000014#32 = .command .gfMul := by decide
theorem test_decode_gen_poly : decode 0x00000018#32 = .command .genPoly := by decide
theorem test_decode_rs_encode : decode 0x00000019#32 = .command .rsEncode := by decide
theorem test_decode_assemble : decode 0x0000001A#32 = .command .assemble := by decide
theorem test_decode_place_matrix : decode 0x00000020#32 = .command .placeMatrix := by decide
theorem test_decode_encode : decode 0x00000030#32 = .command .encode := by decide
theorem test_decode_soft_reset : decode 0x000000FF#32 = .command .softReset := by decide

/-- V-L2-95 and V-L2-96. -/
theorem test_decode_illegal : decode 0x00000008#32 = .illegal .unassignedOpcode ∧
    decode 0x00000101#32 = .illegal .reservedBits := by decide

theorem test_decode_table_word : decodeTableWord 32 0x1A = some .assemble ∧
    decodeTableWord 8 0x30 = some .encode ∧ decodeTableWord 32 0x120 = none := by decide

/-! ## One step of each command -/

/-- V-L2-94: NOP clears the outcome of a failed command. -/
theorem test_nop : after .nop { State.reset with done := true, err := true, errCode := 3 }
    (statusIs 0x2) = true := by decide +kernel

/-- V-L2-97. -/
theorem test_soft_reset : after .softReset
    { State.reset with level := 3, version := 2, done := true, err := true, haz := true, errCode := 3 }
    (fun t => t.statusWord == 0x2 && t.level == 0 && t.version == 0) = true := by decide +kernel

/-- V-L1-03. -/
theorem test_select_mode_alphanumeric : after .selectMode (withText [0x2D, 0x31] 0)
    (fun t => t.mode == 2 && t.statusWord == 0x2) = true := by decide +kernel

/-- V-L2-32. -/
theorem test_select_mode_too_long : after .selectMode { State.reset with textLen := 257, mode := 9 }
    (fun t => t.mode == 9 && t.statusWord == 0x106) = true := by decide +kernel

/-- V-L1-08. -/
theorem test_select_version_hello : after .selectVersion (withText hello 3)
    (fun t => t.mode == 2 && t.version == 2) = true := by decide +kernel

/-- V-L2-33: the comparison is strict. -/
theorem test_select_version_strict : after .selectVersion (withText (List.replicate 10 0x41) 3)
    (fun t => t.version == 2) = true := by decide +kernel

/-- V-L2-26. -/
theorem test_cap_lookup_kanji : after .capLookup
    { State.reset with version := 4, level := 3, mode := 8 }
    (fun t => t.capTotal == 100 && t.capEc == 64 && t.capBlocks == 4 && t.capData == 36 &&
      t.capChars == 21) = true := by decide +kernel

/-- V-L2-28. -/
theorem test_cap_lookup_not_found : after .capLookup { State.reset with version := 1, mode := 3 }
    (statusIs 0x406) = true := by decide +kernel

/-- V-L1-16. -/
theorem test_mode_ind : after .modeInd { State.reset with mode := 4 }
    (fun t => t.fieldVal == 4 && t.fieldW == 4) = true := by decide +kernel

/-- V-L2-43. -/
theorem test_mode_ind_kanji : after .modeInd { State.reset with mode := 8 } (statusIs 0x206) = true :=
  by decide +kernel

/-- V-L2-44. -/
theorem test_count_ind : after .countInd { State.reset with mode := 2, version := 1, textLen := 11 }
    (fun t => t.fieldVal == 11 && t.fieldW == 9) = true := by decide +kernel

/-- V-L2-46. -/
theorem test_count_ind_overflow : after .countInd
    { State.reset with mode := 4, version := 1, textLen := 256 } (statusIs 0x306) = true := by
  decide +kernel

/-- V-L1-04. -/
theorem test_build_bitstream_numeric : after .buildBitstream
    (withText [0x38, 0x36, 0x37, 0x35, 0x33, 0x30, 0x39] 0)
    (fun t => t.mode == 1 && t.bitLen == 24 && t.readBytes 0x200 3 == [0xD8, 0xE1, 0x29]) = true := by
  decide +kernel

/-- V-L1-05. -/
theorem test_build_bitstream_alphanumeric : after .buildBitstream (withText hello 0)
    (fun t => t.bitLen == 61 &&
      t.readBytes 0x200 8 == [0x61, 0x6F, 0x1A, 0x2E, 0x5B, 0x89, 0xA8, 0x68]) = true := by
  decide +kernel

/-- V-L2-54. -/
theorem test_build_padded_hello : after .buildPadded (withText hello 1)
    (fun t => t.mode == 2 && t.version == 1 && t.bitLen == 128 && t.readBytes 0x200 16 == helloData) =
    true := by decide +kernel

/-- V-L2-59c. -/
theorem test_build_padded_byte : after .buildPadded (withText [0x61] 3)
    (fun t => t.readBytes 0x200 9 == [64, 22, 16, 236, 17, 236, 17, 236, 17]) = true := by
  decide +kernel

/-- V-L2-01. -/
theorem test_gf_log : after .gfLog { State.reset with gfA := 29 } (fun t => t.gfR == 8) = true := by
  decide +kernel

/-- V-L2-05. -/
theorem test_gf_log_zero : after .gfLog { State.reset with gfR := 7 }
    (fun t => t.gfR == 7 && t.statusWord == 0x206) = true := by decide +kernel

/-- V-L2-08. -/
theorem test_gf_exp_255 : after .gfExp { State.reset with gfA := 255 } (fun t => t.gfR == 1) = true :=
  by decide +kernel

/-- V-L2-12: 255 is not reduced. -/
theorem test_gf_mula_255 : after .gfMula { State.reset with gfA := 254, gfB := 1 }
    (fun t => t.gfR == 255) = true := by decide +kernel

/-- V-L2-13. -/
theorem test_gf_mula_510 : after .gfMula { State.reset with gfA := 255, gfB := 255 }
    (fun t => t.gfR == 0) = true := by decide +kernel

/-- V-L2-16. -/
theorem test_gf_xor : after .gfXor { State.reset with gfA := 0x53, gfB := 0xCA }
    (fun t => t.gfR == 0x99) = true := by decide +kernel

/-- V-L2-18. -/
theorem test_gf_mul : after .gfMul { State.reset with gfA := 0x53, gfB := 0xCA }
    (fun t => t.gfR == 0x8F) = true := by decide +kernel

/-- V-L2-21. -/
theorem test_gf_mul_zero : after .gfMul { State.reset with gfA := 0, gfB := 77 }
    (fun t => t.gfR == 0 && t.statusWord == 0x2) = true := by decide +kernel

/-- V-L2-60a, the words of GENBUF. -/
theorem test_gen_poly : after .genPoly { State.reset with genDeg := 10 }
    (fun t => t.genLen == 11 && t.readWord 0x340 == 0x2E43FB00 && t.readWord 0x344 == 0x4046763D &&
      t.readWord 0x348 == 0x002D205E && t.readWord 0x37C == 0) = true := by decide +kernel

/-- V-L2-65. -/
theorem test_gen_poly_degree_zero : after .genPoly State.reset (statusIs 0x106) = true := by
  decide +kernel

/-- V-L1-09. -/
theorem test_rs_encode_hello : after .rsEncode (withData helloData 1 1)
    (fun t => t.ecLen == 10 && t.readBytes 0x300 10 == helloEc) = true := by decide +kernel

/-- V-L2-69: a zero leading term is dropped. -/
theorem test_rs_encode_zero_lead : after .rsEncode (withData [0, 1] 1 0)
    (fun t => t.readBytes 0x300 7 == [127, 122, 154, 164, 11, 68, 117]) = true := by decide +kernel

/-- V-L2-79. -/
theorem test_assemble_ec_only : after .assemble
    { State.reset.storeBytes 0x300 [9, 8, 7] with ecLen := 3 }
    (fun t => t.finalLen == 3 && t.readBytes 0x400 3 == [9, 8, 7]) = true := by decide +kernel

/-- V-L2-80. -/
theorem test_assemble_ec_too_long : after .assemble { State.reset with ecLen := 33 }
    (statusIs 0x106) = true := by decide +kernel

/-- V-L2-60: rows 0, 8 and 20 of the placed matrix. -/
theorem test_place_matrix_hello : after .placeMatrix
    { State.reset.storeBytes 0x400 (helloData ++ helloEc) with finalLen := 26, version := 1 }
    (fun t => t.side == 21 && t.readWord 0x800 == 0x001FD87F && t.readWord 0x840 == 0x000E1E40 &&
      t.readWord 0x8A0 == 0x0003877F && t.readWord 0x8A8 == 0) = true := by decide +kernel

/-- V-L2-83: 240 bits do not fit in 239 cells. -/
theorem test_place_matrix_too_many_bits : after .placeMatrix
    { State.reset with finalLen := 30, version := 1 } (statusIs 0x306) = true := by decide +kernel

/-- V-L2-89. -/
theorem test_encode_hello : after .encode (withText hello 1)
    (fun t => t.mode == 2 && t.version == 1 && t.bitLen == 128 && t.ecLen == 10 && t.finalLen == 26 &&
      t.side == 21 && t.readBytes 0x400 26 == helloData ++ helloEc && t.readWord 0x800 == 0x001FD87F) =
    true := by decide +kernel

/-- V-L2-90: a multi-block configuration writes nothing. -/
theorem test_encode_multi_block : after .encode (withText (List.replicate 40 0x61) 2)
    (fun t => t == { withText (List.replicate 40 0x61) 2 with
      done := true, err := true, errCode := 2 }) = true := by decide +kernel

/-! ## The bus and the step -/

/-- V-L2-98: a write in the BUSY window is dropped and sets HAZ. -/
theorem test_busy_write : (busWrite (State.reset.accept 0) 0x00C 3).level = 0 ∧
    (busWrite (State.reset.accept 0) 0x00C 3).haz = true := by decide

/-- V-L2-99. -/
theorem test_status_write_clears_haz :
    busWrite { State.reset with haz := true, done := true } 0x008 0x8 =
      { State.reset with done := true } := by decide

/-- V-L2-100. -/
theorem test_reserved_reads : [0x05C, 0x320, 0xFFC].all
    (fun a => State.reset.readWord a == 0) = true := by decide +kernel

/-- V-L2-101 and V-L2-102. -/
theorem test_ro_and_field_writes : busWrite State.reset 0x058 5 = State.reset ∧
    (busWrite State.reset 0x00C 0xFFFFFFFE).level = 2 := by decide

/-- Program P2's first write: TEXT "HELL" in little-endian packing (20_memory.md R62). -/
theorem test_text_word : (busWrite State.reset 0x100 0x4C4C4548).readBytes 0x100 4 =
    [0x48, 0x45, 0x4C, 0x4C] := by decide +kernel

/-- V-L2-95 through the step: an illegal word completes with code 5. -/
theorem test_step_illegal : step (State.reset.withFetchWord 32 0x08) =
    .next { State.reset with done := true, err := true, errCode := 5 } := by rfl

/-- Both schedules of program P4: the LEVEL write lands in the window or after the completion. -/
theorem test_p4_schedules :
    step { State.reset.accept 0 with inputs := [⟨true, .write 0x00C 3⟩] } =
      .next { State.reset.accept 0 with haz := true } ∧
    step { State.reset.accept 0 with inputs := [⟨false, .write 0x00C 3⟩] } =
      .next { State.reset with done := true, inputs := [⟨false, .write 0x00C 3⟩] } := by
  constructor <;> rfl

/-! ## Witnesses: concrete states and operands that meet the hypotheses of each statement, at the
boundaries of its clauses -/

/-- The reset state with a command accepted. -/
def accepted (i : Instr) : State := State.reset.accept (encode i)

/-- exec answers a next state that passes the check. -/
def answers (i : Instr) (s : State) : Bool := after i s (fun _ => true)

theorem witness_CommandWordsDecodeToTheirCommands :
    (0x08 < 256 ∧ 0x08 ≤ 0x08 ∧ 0x08 ≤ 0x0F) ∧ (0xFE < 256 ∧ 0x31 ≤ 0xFE ∧ 0xFE ≤ 0xFE) := by decide

theorem witness_ProductIsPolynomialMultiplication :
    exec .gfXor State.reset = .next { State.reset with done := true } := rfl

theorem witness_EveryWordIsACommandOrIllegal :
    ((0xFF#32).toNat / 256 = 0 ∧ opcode .softReset = (0xFF#32).toNat % 256) ∧
    (0x100#32).toNat / 256 ≠ 0 ∧ (∀ i, opcode i ≠ (0x08#32).toNat % 256) ∧
    wordAddress 0x004 = 0x004 ∧ wordAddress 0x007 = 0x004 ∧ Idle State.reset := by
  refine ⟨by decide, by decide, ?_, by decide, by decide, by decide⟩
  intro i; cases i <;> decide

theorem witness_StepRunsTheAcceptedCommand :
    let s := { accepted .encode with inputs := [⟨false, .read 0x008⟩] }
    s.pending = some 0x30#32 ∧ decode 0x30#32 = .command .encode ∧ s.resetIn = false ∧
      ∀ e rest, s.inputs = e :: rest → e.inWindow = false := by
  refine ⟨by decide, by decide, by decide, ?_⟩
  intro e rest h; cases h; rfl

theorem witness_StepRunsTheAcceptedCommand_illegal :
    let s := State.reset.accept 0x08#32
    s.pending = some 0x08#32 ∧ s.resetIn = false ∧ decode 0x08#32 = .illegal .unassignedOpcode ∧
      ∀ e rest, s.inputs = e :: rest → e.inWindow = false := by
  refine ⟨by decide, by decide, by decide, ?_⟩
  intro e rest h; cases h

theorem witness_StepServesTheHost :
    let e : BusEvent := ⟨true, .read 0x008⟩
    ({ State.reset with inputs := [e] }.inputs = e :: [] ∧ State.reset.pending = none) ∧
    ({ State.reset with resetIn := true }.resetIn = true) ∧
    ((accepted .nop).pending ≠ none ∧ e.inWindow = true) ∧ State.reset.inputs = [] := by decide

theorem witness_LifeOfACommand :
    wordAddress 0x005 = 0x004 ∧ Idle State.reset ∧ Busy (accepted .nop) ∧
    engineStep (accepted .gfLog) 0x10#32 =
      .next { State.reset with done := true, err := true, errCode := 2 } ∧
    (accepted .nop).turn = .engine 0x00#32 := by
  refine ⟨by decide, by decide, by decide, rfl, by decide⟩

theorem witness_PendingCommandEndsInFiniteTime :
    (accepted .nop).resetIn = false ∧ (accepted .nop).pending.isSome = true := by decide

theorem witness_CommandSeesTheStateOfItsAcceptance :
    Busy (accepted .gfXor) ∧
    (∀ op ∈ [BusOp.read 0x030, BusOp.write 0x028 7], ∀ b, op ≠ .resetPin b) ∧
    exec .gfXor (accepted .gfXor) = .next { State.reset with done := true } := by
  refine ⟨by decide, ?_, rfl⟩
  intro op h b
  simp only [List.mem_cons, List.not_mem_nil, or_false] at h
  rcases h with rfl | rfl <;> simp

theorem witness_FailedCommandChangesOnlyStatus :
    exec .gfLog State.reset =
      .next { State.reset with done := true, err := true, errCode := 2 } := rfl

theorem witness_OutcomePersists :
    step (accepted .nop) = .next { State.reset with done := true } ∧
    (accepted .nop).done ≠ true ∧ wordAddress 0x00B = 0x008 := by
  refine ⟨rfl, by decide, by decide⟩

theorem witness_CommandWritesOnlyItsResults :
    exec .genPoly State.reset =
      .next { State.reset with done := true, err := true, errCode := 1 } ∧
    (∀ w ∈ writtenBuffers .genPoly, w.covers 0x33F = false ∧ w.covers 0x380 = false) := by
  refine ⟨rfl, by decide⟩

theorem witness_OutcomeDependsOnlyOnOperands :
    SameOperands .gfExp { State.reset with gfA := 3, gfB := 1 } { State.reset with gfA := 3 } ∧
    answers .gfExp { State.reset with gfA := 3, gfB := 1 } = true ∧
    answers .gfExp { State.reset with gfA := 3 } = true := by
  refine ⟨⟨?_, ?_⟩, by decide +kernel, by decide +kernel⟩
  · decide
  · simp [readRanges]

theorem witness_StatusRegister :
    wordAddress 0x008 = 0x008 ∧ wordAddress 0x00B = 0x008 ∧ Idle State.reset ∧
    Busy (accepted .nop) ∧ (accepted .nop).statusLegal = true ∧
    step (accepted .nop) = .next { State.reset with done := true } := by
  refine ⟨by decide, by decide, by decide, by decide, by decide, rfl⟩

theorem witness_RwRegisterStoresItsField :
    (0x00C, 2, .level, 0, { State.reset with level := 3 }) ∈ rwRegisters State.reset 0xFF ∧
    (0x034, 6, .genDeg, 0, { State.reset with genDeg := 63 }) ∈ rwRegisters State.reset 0xFF ∧
    wordAddress 0x00C = 0x00C ∧ wordAddress 0x037 = 0x034 ∧ Idle State.reset := by decide

theorem witness_RoRegistersIgnoreWrites :
    (wordAddress 0x000, .id, 0x51520007#32) ∈ roRegisters State.reset ∧
    (wordAddress 0x05B, .side, 0#32) ∈ roRegisters State.reset ∧
    (0x05C ≤ wordAddress 0x05C ∧ wordAddress 0x05C ≤ 0x0FC) ∧
    (0x05C ≤ wordAddress 0x0FF ∧ wordAddress 0x0FF ≤ 0x0FC) ∧ Idle State.reset ∧
    Busy (accepted .nop) := by decide

theorem witness_BufferWordsAreLittleEndian :
    InRwBuffer (wordAddress 0x100) ∧ InRwBuffer (wordAddress 0x31F) ∧ InRwBuffer (wordAddress 0x400) ∧
    InRwBuffer (wordAddress 0x5FF) ∧ InRoBuffer (wordAddress 0x340) ∧
    InRoBuffer (wordAddress 0x37F) ∧ InRoBuffer (wordAddress 0x800) ∧
    InRoBuffer (wordAddress 0x907) ∧ Idle State.reset ∧
    (0 ≤ 32 ∧ wordAddress 0x803 = 0x800 + 8 * 0) ∧ (32 ≤ 32 ∧ wordAddress 0x900 = 0x800 + 8 * 32) ∧
    wordAddress 0x804 = 0x804 + 8 * 0 ∧ wordAddress 0x907 = 0x804 + 8 * 32 ∧
    wordAddress 0x907 ≤ 0x907 := by decide

theorem witness_BufferWordsAreLittleEndian_placed :
    after .placeMatrix { State.reset with version := 1 }
      (fun t => !t.err && t.side.toNat ≤ 21 && t.side.toNat ≤ 32) = true := by decide +kernel

theorem witness_AddressMapAccesses :
    (0x101#12).extractLsb' 2 10 = (0x103#12).extractLsb' 2 10 ∧ Idle State.reset ∧
    InRoBuffer (wordAddress 0x37F) ∧ InRoBuffer (wordAddress 0x907) ∧
    [0x05C#12, 0x0FF, 0x320, 0x33F, 0x380, 0x3FF, 0x600, 0x7FF, 0x908, 0xFFF].all (fun a =>
      decide (0x05C ≤ wordAddress a ∧ ¬InRwBuffer (wordAddress a) ∧ ¬InRoBuffer (wordAddress a))) =
      true := by decide

theorem witness_AccessSideEffects :
    Idle State.reset ∧ wordAddress 0x100 ≠ 0x004 ∧ wordAddress 0x100 ≠ 0x008 ∧
    regAt (wordAddress 0x100) ≠ some .level ∧ Busy (accepted .nop) := by decide

theorem witness_BusyWindowWrites :
    Busy (accepted .nop) ∧
    step { accepted .softReset with haz := true } = .next { State.reset with done := true } ∧
    step { State.reset with haz := true, inputs := [⟨false, .resetPin true⟩] } =
      .next { State.reset with resetIn := true, epoch := 1 } ∧
    step { State.reset with haz := true, inputs := [⟨false, .write 0x008 8⟩] } = .next State.reset := by
  refine ⟨by decide, rfl, rfl, rfl⟩

theorem witness_BusyWindowReads :
    Busy (accepted .nop) ∧ wordAddress 0x00B = 0x008 ∧ (accepted .nop).statusLegal = true ∧
    wordAddress 0x003 = 0x000 ∧ wordAddress 0x004 ≠ 0x008 ∧ wordAddress 0x004 ≠ 0x000 ∧
    wordAddress 0xFFF ≠ 0x008 := by decide

theorem witness_HardwareReset : { State.reset with resetIn := true }.resetIn = true := by decide

theorem witness_StepKeepsTheInvariant :
    Inv (accepted .nop) ∧ step (accepted .nop) = .next { State.reset with done := true } := by
  refine ⟨⟨by decide, by decide, by decide, by decide, by decide, ?_, .inl rfl, ?_⟩, rfl⟩
  · intro h; exact absurd rfl h
  · intro h; exact absurd rfl h

theorem witness_GfLogGivesTheLogarithm :
    State.reset.gfA = 0 ∧ { State.reset with gfA := 255 }.gfA ≠ 0 := by decide

theorem witness_GfMulMultipliesElements :
    (State.reset.gfA = 0 ∨ State.reset.gfB = 0) ∧
    (254 < 255 ∧ alphaPow 254 = (142#8).toNat ∧ 1 < 255 ∧ alphaPow 1 = (2#8).toNat) := by
  decide +kernel

theorem witness_RomsAreExact : (1#8 ≠ 0) ∧ (254#8).toNat < 255 := by decide

theorem witness_FieldLaws : logRom 0x53 = some 206 := by decide

theorem witness_CapLookupReadsTheTable :
    let s := { State.reset with version := 4, level := 3, mode := 8 }
    ([4, 3, 100, 64, 4, 36, 288, 82, 50, 34, 21] ∈ printedCapacities ∧ (8, 10) ∈ modeColumn ∧
      4 = s.version.toNat ∧ 3 = s.level.toNat ∧ 8 = s.mode.toNat) ∧
    State.reset.version.toNat = 0 ∧ 4 < (5#6).toNat ∧ (3#4).toNat ∉ [1, 2, 4, 8] := by decide

theorem witness_SelectModeFollowsTheText :
    256 < { State.reset with textLen := 257 }.textLen.toNat ∧
    { State.reset with textLen := 256 }.textLen.toNat ≤ 256 := by decide

theorem witness_SelectVersionIsLeast :
    256 < { State.reset with textLen := 257 }.textLen.toNat ∧
    (let s := withText (List.replicate 187 0x31) 0
     s.textLen.toNat ≤ 256 ∧ ∀ v ∈ [1, 2, 3, 4],
       capacityOf v (levelOf s.level) (selectMode (textOf s)) ≤ s.textLen.toNat) ∧
    (let s := withText (List.replicate 10 0x41) 3
     s.textLen.toNat ≤ 256 ∧
       s.textLen.toNat < capacityOf 2 (levelOf s.level) (selectMode (textOf s)) ∧
       capacityOf 1 (levelOf s.level) (selectMode (textOf s)) ≤ s.textLen.toNat) := by decide +kernel

theorem witness_VersionIsMonotonic : smallestVersion ([0x31] ++ [0x61]) .H = some 1 := by decide

theorem witness_ModeIndicator :
    (8#4).toNat = 8 ∧ (0#4).toNat ∉ [1, 2, 4, 8] ∧ (15#4).toNat ∉ [1, 2, 4, 8] ∧
    (1#4).toNat ∈ [1, 2, 4] ∧ (4#4).toNat ∈ [1, 2, 4] := by decide

theorem witness_CountIndicator :
    256 < (257#9).toNat ∧ (8#4).toNat ∉ [1, 2, 4] ∧ (0#6).toNat = 0 ∧ 40 < (41#6).toNat ∧
    ((256#9).toNat ≤ 256 ∧ (4#4).toNat ∈ [1, 2, 4] ∧ 1 ≤ (1#6).toNat ∧ (40#6).toNat ≤ 40) ∧
    2 ^ widthRule 9 4 ≤ (256#9).toNat ∧ (256#9).toNat < 2 ^ widthRule 10 4 := by decide

theorem witness_NumericBitsByGroups :
    [0x30#8, 0x30, 0x30].length = 3 ∧ (∀ b ∈ [0x30#8], isDigit b = true) ∧ 1 ≤ [0x30#8].length ∧
    (∀ b ∈ [0x39#8, 0x39, 0x39], isDigit b = true) := by decide

theorem witness_AlphanumericBitsByPairs :
    (∀ b ∈ hello, isAlnum b = true) ∧ 4 < hello.length / 2 ∧ hello.length % 2 = 1 := by decide

theorem witness_ByteBitsMostSignificantFirst : 10 < hello.length ∧ 7 < 8 := by decide

theorem witness_BuildBitstreamWritesTheDataBits :
    256 < { State.reset with textLen := 257 }.textLen.toNat ∧
    { State.reset with textLen := 256 }.textLen.toNat ≤ 256 := by decide

theorem witness_BuildPaddedFillsTheCapacity :
    256 < { State.reset with textLen := 257 }.textLen.toNat ∧
    (let s := withText (List.replicate 187 0x31) 0
     s.textLen.toNat ≤ 256 ∧ smallestVersion (textOf s) (levelOf s.level) = none) ∧
    (let s := withText (List.replicate 186 0x31) 0
     s.textLen.toNat ≤ 256 ∧ smallestVersion (textOf s) (levelOf s.level) = some 4) := by
  decide +kernel

theorem witness_PaddedStreamHasTheCapacityLength : smallestVersion hello .H = some 2 := by decide

theorem witness_GeneratorIsTheProductOfItsRoots : 1 ≤ 1 ∧ 32 ≤ 32 := by decide

theorem witness_GenPolyWritesTheGenerator :
    State.reset.genDeg.toNat = 0 ∧ 32 < (33#6).toNat ∧ 1 ≤ (1#6).toNat ∧ (32#6).toNat ≤ 32 ∧
    (32#6).toNat < 63 := by decide

theorem witness_RsEncodeWritesTheRemainder :
    2048 < (2056#12).toNat ∧ (12#12).toNat % 8 ≠ 0 ∧
    ((2048#12).toNat ≤ 2048 ∧ (2048#12).toNat % 8 = 0) ∧ (0#6).toNat = 0 ∧ 4 < (5#6).toNat ∧
    (∃ r, capRow 4 (levelOf 3) = some r ∧ r.blocks ≠ 1) ∧
    ∃ r, capRow 1 (levelOf 1) = some r ∧ r.blocks = 1 := by
  refine ⟨by decide, by decide, by decide, by decide, by decide, ⟨_, rfl, by decide⟩, ⟨_, rfl, rfl⟩⟩

theorem witness_EcCodewordsAreTheRemainder : 1 ≤ 10 ∧ 10 ≤ 32 := by decide

theorem witness_CodewordsVanishAtTheRoots : 1 ≤ 32 ∧ 32 ≤ 32 ∧ 31 < 32 := by decide

theorem witness_AssembleConcatenates :
    2048 < (2056#12).toNat ∧ (12#12).toNat % 8 ≠ 0 ∧ 32 < (33#6).toNat ∧
    ((2048#12).toNat ≤ 2048 ∧ (2048#12).toNat % 8 = 0 ∧ (32#6).toNat ≤ 32) := by decide

theorem witness_ReservedCellPatterns :
    1 ≤ 1 ∧ 4 ≤ 4 ∧ 6 < 7 ∧ 7 < 8 ∧ 8 ≤ 4 * 1 + 17 - 9 := by decide

theorem witness_PlacementOrderIsTheZigZag : 1 ≤ 1 ∧ 4 ≤ 4 := by decide

theorem witness_AvailableCellCounts : ∃ r, capRow 4 .H = some r := ⟨_, rfl⟩

theorem witness_PlaceMatrixWritesTheSymbol :
    512 < (513#10).toNat ∧ (512#10).toNat ≤ 512 ∧ (0#6).toNat = 0 ∧ 4 < (5#6).toNat ∧
    (1 ≤ (1#6).toNat ∧ (4#6).toNat ≤ 4) ∧
    (placementOrder (4 * 1 + 17)).length < 8 * (30#10).toNat ∧
    8 * (29#10).toNat ≤ (placementOrder (4 * 1 + 17)).length := by decide +kernel

theorem witness_OnlyPlacementChangesTheMatrix :
    let s := { (accepted .placeMatrix).storeBytes 0x800 (List.replicate 264 0xFF) with version := 1 }
    (match step s with
     | .next t => t.cell 1 1 != s.cell 1 1
     | _ => false) = true := by decide +kernel

theorem witness_EncodeRunsThePipeline :
    256 < (257#9).toNat ∧
    (let s := withText (List.replicate 187 0x31) 0
     s.textLen.toNat ≤ 256 ∧ smallestVersion (textOf s) (levelOf s.level) = none) ∧
    (let s := withText (List.replicate 40 0x61) 2
     s.textLen.toNat ≤ 256 ∧ smallestVersion (textOf s) (levelOf s.level) = some 4 ∧
       ((capRow 4 (levelOf s.level)).map (·.blocks)) = some 2) ∧
    (let s := withText hello 1
     s.textLen.toNat ≤ 256 ∧ smallestVersion (textOf s) (levelOf s.level) = some 1 ∧
       ((capRow 1 (levelOf s.level)).map (·.blocks)) = some 1) := by decide +kernel

theorem witness_EncodeEqualsTheFourCommands :
    after .encode (withText hello 1) (fun t => !t.err) = true := by decide +kernel

end Sys2Proof.Tests
end

section
/-! SUPPORT. Proofs about the registers of the host bus (10_state.md): what an access to a register's
word does, what a register write leaves unchanged, and which steps keep STATUS legal. -/

namespace Sys2Proof.Machine

/-! ## The address map of the registers -/

/-- The offset of each register: the address map of `regAt` read the other way (10_state.md R21 to
R39). -/
def Reg.offset : Reg → Nat
  | .id => 0x000
  | .cmd => 0x004
  | .status => 0x008
  | .level => 0x00C
  | .version => 0x010
  | .mode => 0x014
  | .textLen => 0x018
  | .bitLen => 0x01C
  | .ecLen => 0x020
  | .finalLen => 0x024
  | .gfA => 0x028
  | .gfB => 0x02C
  | .gfR => 0x030
  | .genDeg => 0x034
  | .genLen => 0x038
  | .fieldVal => 0x03C
  | .fieldW => 0x040
  | .capTotal => 0x044
  | .capData => 0x048
  | .capEc => 0x04C
  | .capBlocks => 0x050
  | .capChars => 0x054
  | .side => 0x058

theorem regAt_eq_some_iff {k : Nat} {r : Reg} : regAt k = some r ↔ k = r.offset := by
  constructor
  · intro h
    unfold regAt at h
    split at h <;> cases h <;> rfl
  · rintro rfl
    cases r <;> rfl

theorem Reg.offset_le (r : Reg) : r.offset ≤ 0x058 := by
  cases r <;> decide

/-- Past SIDE no word is a register. -/
theorem regAt_of_reserved {k : Nat} (h : 0x05C ≤ k) : regAt k = none := by
  rw [Option.eq_none_iff_forall_ne_some]
  intro r hr
  have := r.offset_le
  rw [regAt_eq_some_iff] at hr
  omega

/-- The buffers begin at 0x100. -/
theorem windowAt_of_lt {k : Nat} (h : k < 0x100) : windowAt k = none := by
  rw [windowAt, List.find?_eq_none]
  intro w hw hc
  have hbase : 0x100 ≤ w.base := (by decide : ∀ w ∈ windows, 0x100 ≤ w.base) w hw
  rw [Window.covers_iff] at hc
  omega

/-! ## Words of the address space -/

theorem State.readWord_of_reg {k : Nat} {r : Reg} (h : regAt k = some r) (s : State) :
    s.readWord k = s.readReg r := by
  simp [State.readWord, h]

theorem State.writeWord_of_reg {k : Nat} {r : Reg} (h : regAt k = some r) (s : State) (v : Word) :
    s.writeWord k v = s.writeReg r v := by
  simp [State.writeWord, h]

theorem State.readWord_of_reserved {k : Nat} (h : 0x05C ≤ k) (h' : k < 0x100) (s : State) :
    s.readWord k = 0 := by
  simp [State.readWord, regAt_of_reserved h, windowAt_of_lt h']

theorem State.writeWord_of_reserved {k : Nat} (h : 0x05C ≤ k) (h' : k < 0x100) (s : State)
    (v : Word) : s.writeWord k v = s := by
  simp [State.writeWord, regAt_of_reserved h, windowAt_of_lt h']

/-- Everything a write to a word can do: a register write, four bytes of a buffer, or nothing. -/
theorem State.writeWord_cases (s : State) (k : Nat) (v : Word) :
    (∃ r, regAt k = some r ∧ s.writeWord k v = s.writeReg r v) ∨
    s.writeWord k v = s.storeBytes k (unpackWord v) ∨ s.writeWord k v = s := by
  cases hr : regAt k with
  | some r => exact .inl ⟨r, rfl, State.writeWord_of_reg hr s v⟩
  | none =>
    cases hw : windowAt k with
    | none => simp [State.writeWord, hr, hw]
    | some w => cases hb : w.hostWritable <;> simp [State.writeWord, hr, hw, hb]

/-- Two states with the same buffers read alike at every word whose register reads alike. -/
theorem State.readWord_congr {s t : State} (hb : AllBytesKept s t) {k : Nat}
    (hr : ∀ r, regAt k = some r → t.readReg r = s.readReg r) : t.readWord k = s.readWord k := by
  cases h : regAt k with
  | some r => rw [State.readWord_of_reg h, State.readWord_of_reg h, hr r h]
  | none => simp only [State.readWord, h, hb]

/-! ## Bus accesses -/

/-- An idle read of a register's word answers what the register reads. -/
theorem busRead_of_reg {s : State} (hp : s.pending = none) (hr : s.resetIn = false) {a : Addr}
    {r : Reg} (h : regAt (wordAddress a) = some r) : busRead s a = s.reply (s.readReg r) := by
  rw [busRead_of_idle hp hr, State.readWord_of_reg h]

/-- An idle write to a register's word is a write to the register. -/
theorem busWrite_of_reg {s : State} (hp : s.pending = none) (hr : s.resetIn = false) {a : Addr}
    {r : Reg} (h : regAt (wordAddress a) = some r) (v : Word) :
    busWrite s a v = s.writeReg r v := by
  rw [busWrite_of_idle hp hr, State.writeWord_of_reg h]

/-! ## Register writes -/

/-- The width of the field of an RW register, none for the other registers (10_state.md R24 to R35,
R40). -/
def Reg.rwWidth : Reg → Option Nat
  | .level => some 2
  | .version => some 6
  | .mode => some 4
  | .textLen => some 9
  | .bitLen => some 12
  | .ecLen => some 6
  | .finalLen => some 10
  | .gfA => some 8
  | .gfB => some 8
  | .genDeg => some 6
  | _ => none

theorem State.writeReg_status (s : State) (v : Word) :
    s.writeReg .status v = { s with haz := if v.getLsbD 3 then false else s.haz } := by
  unfold State.writeReg
  cases v.getLsbD 3 <;> rfl

@[simp] theorem State.writeReg_mem (s : State) (r : Reg) (v : Word) :
    (s.writeReg r v).mem = s.mem := by
  cases r with
  | status => rw [State.writeReg_status]
  | _ => rfl

/-- No register write touches the outside world's fields. -/
theorem State.writeReg_envKept (s : State) (r : Reg) (v : Word) : EnvKept s (s.writeReg r v) := by
  cases r with
  | status => rw [State.writeReg_status]; exact ⟨rfl, rfl, rfl, rfl, rfl⟩
  | _ => exact ⟨rfl, rfl, rfl, rfl, rfl⟩

/-- Only a write to CMD accepts a command. -/
theorem State.writeReg_pending {r : Reg} (h : r ≠ .cmd) (s : State) (v : Word) :
    (s.writeReg r v).pending = s.pending := by
  cases r with
  | cmd => exact absurd rfl h
  | status => rw [State.writeReg_status]
  | _ => rfl

/-- Only a write to STATUS changes HAZ. -/
theorem State.writeReg_haz {r : Reg} (h : r ≠ .status) (s : State) (v : Word) :
    (s.writeReg r v).haz = s.haz := by
  cases r with
  | status => exact absurd rfl h
  | _ => rfl

theorem State.writeReg_allBytesKept (s : State) (r : Reg) (v : Word) :
    AllBytesKept s (s.writeReg r v) := by
  obtain ⟨-, -, -, hepoch, -⟩ := s.writeReg_envKept r v
  exact State.readByte_congr (s.writeReg_mem r v) hepoch

/-- A write to a register other than CMD and STATUS leaves every other register alone, STATUS among
them. -/
theorem State.readReg_writeReg_of_ne {r q : Reg} (hc : r ≠ .cmd) (hs : r ≠ .status) (h : q ≠ r)
    (s : State) (v : Word) : (s.writeReg r v).readReg q = s.readReg q := by
  have key : (s.writeReg r v).readReg q =
      if q = r then (s.writeReg r v).readReg r else s.readReg q := by
    cases r with
    | cmd => exact absurd rfl hc
    | status => exact absurd rfl hs
    | _ => cases q <;> rfl
  rw [key, if_neg h]

/-- An RW register reads back the bits of its field (10_state.md R40). -/
theorem State.readReg_writeReg_same {r : Reg} {n : Nat} (h : r.rwWidth = some n) (s : State)
    (v : Word) : ((s.writeReg r v).readReg r).toNat = v.toNat % 2 ^ n := by
  cases r <;> cases h <;> simp [State.writeReg, State.readReg] <;> omega

/-- What an RW register reads fits its field. -/
theorem State.readReg_lt {r : Reg} {n : Nat} (h : r.rwWidth = some n) (s : State) :
    (s.readReg r).toNat < 2 ^ n := by
  cases r <;> cases h <;> rw [State.readReg, BitVec.toNat_setWidth] <;>
    exact (Nat.mod_le _ _).trans_lt (BitVec.isLt _)

/-! ## STATUS -/

/-- A flag of STATUS stands in the one bit it is shifted to. -/
theorem getLsbD_flag_shiftLeft (b : Bool) {k : Nat} (hk : k < 32) (n : Nat) :
    ((BitVec.ofBool b).setWidth 32 <<< k).getLsbD n = (decide (n = k) && b) := by
  by_cases hn : n = k
  · subst hn
    simp [hk]
  · by_cases hlt : n < k
    · simp [hn, hlt]
    · simp [hn, BitVec.getLsbD_ofBool, show n - k ≠ 0 by omega]

/-- ERRCODE stands in bits 11..8 of STATUS. -/
theorem getLsbD_errCode_shiftLeft (c : BitVec 4) (n : Nat) :
    (c.setWidth 32 <<< 8).getLsbD n = (decide (8 ≤ n ∧ n ≤ 11) && c.getLsbD (n - 8)) := by
  by_cases hhi : n ≤ 11
  · by_cases hlo : 8 ≤ n
    · simp [hlo, hhi, show n < 32 by omega, show ¬n < 8 by omega]
    · simp [hlo, show n < 8 by omega]
  · simp [hhi, BitVec.getLsbD_of_ge c (n - 8) (by omega)]

/-- The layout of the STATUS word (10_state.md R23). -/
theorem State.statusWord_getLsbD (s : State) (n : Nat) :
    s.statusWord.getLsbD n =
      (if n = 0 then s.pending.isSome else if n = 1 then s.done else if n = 2 then s.err
       else if n = 3 then s.haz else if 8 ≤ n ∧ n ≤ 11 then s.errCode.getLsbD (n - 8) else false) := by
  have hbusy := getLsbD_flag_shiftLeft s.busy (k := 0) (by decide) n
  rw [BitVec.shiftLeft_zero] at hbusy
  simp only [State.statusWord, BitVec.getLsbD_or, hbusy, getLsbD_errCode_shiftLeft,
    getLsbD_flag_shiftLeft _ (k := 1) (by decide), getLsbD_flag_shiftLeft _ (k := 2) (by decide),
    getLsbD_flag_shiftLeft _ (k := 3) (by decide)]
  split_ifs with h0 h1 h2 h3 h4
  all_goals simp [*, State.busy]

/-- Whether STATUS is legal depends on its own bits without HAZ. -/
theorem State.statusLegal_congr {s t : State} (hp : t.pending = s.pending) (hd : t.done = s.done)
    (he : t.err = s.err) (hc : t.errCode = s.errCode) : t.statusLegal = s.statusLegal := by
  simp only [State.statusLegal, State.busy, hp, hd, he, hc]

theorem State.accept_statusLegal (s : State) (w : Word) : (s.accept w).statusLegal = true := by
  simp [State.statusLegal, State.accept]

theorem State.hardwareReset_statusLegal (s : State) : s.hardwareReset.statusLegal = true := by
  simp [State.statusLegal, State.busy]

theorem State.writeReg_statusLegal {s : State} (h : s.statusLegal = true) (r : Reg) (v : Word) :
    (s.writeReg r v).statusLegal = true := by
  cases r with
  | cmd => exact s.accept_statusLegal v
  | status => rw [State.writeReg_status]; exact h
  | _ => exact h

theorem busRead_statusLegal {s : State} (h : s.statusLegal = true) (a : Addr) :
    (busRead s a).statusLegal = true := by
  rcases busRead_cases s a with ⟨v, hr⟩ | hr <;> rw [hr] <;> exact h

theorem busWrite_statusLegal {s : State} (h : s.statusLegal = true) (a : Addr) (v : Word) :
    (busWrite s a v).statusLegal = true := by
  unfold busWrite
  split
  · exact h
  · split
    · exact h
    · rcases s.writeWord_cases (wordAddress a) v with ⟨r, -, hw⟩ | hw | hw <;> rw [hw]
      · exact State.writeReg_statusLegal h r v
      · exact h
      · exact h

theorem busStep_statusLegal {s : State} (h : s.statusLegal = true) (op : BusOp) :
    (busStep s op).statusLegal = true := by
  cases op with
  | read a => exact busRead_statusLegal h a
  | write a v => exact busWrite_statusLegal h a v
  | resetPin b => exact s.hardwareReset_statusLegal

/-- A completion leaves STATUS legal, whatever the state before (10_state.md R23). -/
theorem complete_statusLegal {s t : State} {r : Except ErrCode State} (h : complete s r = .next t) :
    t.statusLegal = true := by
  rcases complete_cases h with ⟨u, -, rfl⟩ | ⟨e, -, rfl⟩ <;> exact State.finish_statusLegal _ _

theorem step_statusLegal {s t : State} (h : s.statusLegal = true) (hst : step s = .next t) :
    t.statusLegal = true := by
  rcases step_cases hst with ⟨w, -, -, -, he⟩ | ⟨e, rest, -, -, rfl⟩ | ⟨-, rfl⟩
  · obtain ⟨r, hr⟩ := engineStep_is_complete s w
    exact complete_statusLegal (hr ▸ he)
  · exact busStep_statusLegal (s := { s with inputs := rest }) h e.op
  · exact h

/-! ## The registers as the statements list them -/

/-- A listed RW register stands at its offset, has its field's width, and is read and written as
listed. -/
theorem rwRegisters_spec {s : State} {v : Word} {off n : Nat} {r : Reg} {x : Nat} {u : State}
    (h : (off, n, r, x, u) ∈ rwRegisters s v) :
    regAt off = some r ∧ r.rwWidth = some n ∧ s.writeReg r v = u ∧ (s.readReg r).toNat = x := by
  simp only [rwRegisters, List.mem_append, List.mem_cons, List.not_mem_nil, or_false,
    Prod.mk.injEq] at h
  rcases h with (h | h | h | h | h) | (h | h | h | h | h) <;>
    obtain ⟨rfl, rfl, rfl, rfl, rfl⟩ := h <;>
    exact ⟨rfl, rfl, rfl, BitVec.toNat_setWidth_of_le (by decide)⟩

/-- A listed RO register stands at its offset, reads as listed and ignores register writes. -/
theorem roRegisters_spec {s : State} {off : Nat} {r : Reg} {x : Word}
    (h : (off, r, x) ∈ roRegisters s) :
    regAt off = some r ∧ s.readReg r = x ∧ ∀ v, s.writeReg r v = s := by
  simp only [roRegisters, List.mem_append, List.mem_cons, List.not_mem_nil, or_false,
    Prod.mk.injEq] at h
  rcases h with (h | h | h | h | h | h) | (h | h | h | h | h) <;>
    obtain ⟨rfl, rfl, rfl⟩ := h <;> exact ⟨rfl, rfl, fun _ => rfl⟩

/-- Neither CMD nor STATUS is an RW register. -/
theorem Reg.ne_of_rwWidth {r : Reg} {n : Nat} (h : r.rwWidth = some n) : r ≠ .cmd ∧ r ≠ .status := by
  constructor <;> rintro rfl <;> cases h

/-- A write to the word of a register other than CMD and STATUS leaves every other word alone. -/
theorem State.readWord_writeReg_of_ne {r : Reg} (hc : r ≠ .cmd) (hs : r ≠ .status) {k : Nat}
    (h : k ≠ r.offset) (s : State) (v : Word) : (s.writeReg r v).readWord k = s.readWord k := by
  refine State.readWord_congr (s.writeReg_allBytesKept r v) fun q hq => ?_
  rw [regAt_eq_some_iff] at hq
  exact State.readReg_writeReg_of_ne hc hs (fun e => h (e ▸ hq)) s v

/-! ## The obligations -/

/-- Settles O13: the layout bit by bit, the bus rules at the word of STATUS, and legality through
each kind of step. -/
theorem statusRegister : Obligations.StatusRegister := by
  refine ⟨State.statusWord_getLsbD, fun s a v ha => ?_, by decide, fun s t => step_statusLegal⟩
  have hreg : regAt (wordAddress a) = some .status := by rw [ha]; rfl
  refine ⟨fun ⟨hp, hr⟩ => busRead_of_reg hp hr hreg, fun ⟨hp, hr⟩ => ?_,
    fun ⟨hb, hr⟩ => busWrite_of_busy hb hr a v⟩
  rw [busWrite_of_reg hp hr hreg, State.writeReg_status]

/-- Settles O14: an access to the word of an RW register is an access to that register, whose write
changes its own field alone. -/
theorem rwRegisterStoresItsField : Obligations.RwRegisterStoresItsField := by
  rintro s a v _ n r x u hmem rfl ⟨hp, hr⟩
  obtain ⟨hreg, hwidth, rfl, rfl⟩ := rwRegisters_spec hmem
  obtain ⟨hcmd, hstatus⟩ := Reg.ne_of_rwWidth hwidth
  have hoff := regAt_eq_some_iff.mp hreg
  rw [busWrite_of_reg hp hr hreg, busRead_of_reg hp hr hreg, State.readWord_of_reg hreg]
  refine ⟨rfl, ⟨?readBack, ?pending, State.writeReg_haz hstatus s v, s.writeReg_envKept r v,
    ?otherWords, s.writeReg_allBytesKept r v⟩, rfl, rfl, rfl, State.readReg_lt hwidth s⟩
  case readBack =>
    rw [State.readWord_of_reg hreg]
    exact State.readReg_writeReg_same hwidth s v
  case pending => rw [State.writeReg_pending hcmd, hp]
  case otherWords =>
    intro k _ _ hk
    exact State.readWord_writeReg_of_ne hcmd hstatus (hoff ▸ hk) s v

/-- Settles O15: a listed RO register ignores its register write, and from 0x05C to 0x0FC there is
neither a register nor a buffer. -/
theorem roRegistersIgnoreWrites : Obligations.RoRegistersIgnoreWrites := by
  constructor
  · rintro s a v _ r x hmem rfl
    obtain ⟨hreg, hread, hwrite⟩ := roRegisters_spec hmem
    refine ⟨fun ⟨hp, hr⟩ => ?_, fun ⟨hb, hr⟩ => busWrite_of_busy hb hr a v, fun ⟨hp, hr⟩ => ?_,
      hread⟩
    · rw [busWrite_of_reg hp hr hreg, hwrite]
    · rw [busRead_of_reg hp hr hreg, hread, State.reply]
  · intro s a v hlo hhi
    have hlt : wordAddress a < 0x100 := by omega
    refine ⟨fun ⟨hp, hr⟩ => ?_, fun ⟨hb, hr⟩ => busWrite_of_busy hb hr a v, fun ⟨hp, hr⟩ => ?_⟩
    · rw [busWrite_of_idle hp hr, State.writeWord_of_reserved hlo hlt]
    · rw [busRead_of_idle hp hr, State.readWord_of_reserved hlo hlt, State.reply]

end Sys2Proof.Machine
end

section
/-! SUPPORT. Proofs about the buffers of the host bus (20_memory.md): which buffer a word lies in, what
an access to a buffer word does, and where the cells of MATRIX lie (10_state.md R48). -/

namespace Sys2Proof.Machine

/-! ## The buffers of the address map -/

theorem windows_disjoint : ∀ w ∈ windows, ∀ v ∈ windows,
    v = w ∨ v.base + v.size ≤ w.base ∨ w.base + w.size ≤ v.base := by decide

/-- No buffer overlaps another, so the one that covers an address is the one found there. -/
theorem windowAt_of_covers {w : Window} (hw : w ∈ windows) {k : Nat} (hc : w.covers k = true) :
    windowAt k = some w := by
  obtain ⟨v, hv⟩ : ∃ v, windowAt k = some v :=
    Option.isSome_iff_exists.mp (List.find?_isSome.mpr ⟨w, hw, hc⟩)
  have hvc : v.covers k = true :=
    List.find?_some (p := fun u : Window => u.covers k) (l := windows) hv
  rw [Window.covers_iff] at hc hvc
  rcases windows_disjoint w hw v (List.mem_of_find?_eq_some hv) with rfl | h | h
  · exact hv
  · omega
  · omega

/-- The two ranges of `InRwBuffer` are buffers the host may write: TEXT, BITBUF and ECBUF, and
FINAL. -/
theorem windowAt_of_inRwBuffer {k : Nat} (h : InRwBuffer k) :
    ∃ w, windowAt k = some w ∧ w.hostWritable = true := by
  have key : textWindow.covers k = true ∨ bitbufWindow.covers k = true ∨
      ecbufWindow.covers k = true ∨ finalWindow.covers k = true := by
    simp only [Window.covers_iff, textWindow, bitbufWindow, ecbufWindow, finalWindow]
    omega
  rcases key with hc | hc | hc | hc <;> exact ⟨_, windowAt_of_covers (by decide) hc, rfl⟩

/-- The two ranges of `InRoBuffer` are buffers the host may not write: GENBUF and MATRIX. -/
theorem windowAt_of_inRoBuffer {k : Nat} (h : InRoBuffer k) :
    ∃ w, windowAt k = some w ∧ w.hostWritable = false := by
  have key : genbufWindow.covers k = true ∨ matrixWindow.covers k = true := by
    simp only [Window.covers_iff, genbufWindow, matrixWindow]
    omega
  rcases key with hc | hc <;> exact ⟨_, windowAt_of_covers (by decide) hc, rfl⟩

/-! ## Buffer words (20_memory.md R62) -/

theorem State.readWord_of_buffer {k : Nat} (h : InRwBuffer k ∨ InRoBuffer k) (s : State) :
    s.readWord k =
      packWord (s.readByte k) (s.readByte (k + 1)) (s.readByte (k + 2)) (s.readByte (k + 3)) := by
  have hw : (windowAt k).isSome = true := by
    rcases h with h | h
    · obtain ⟨w, hw, -⟩ := windowAt_of_inRwBuffer h
      simp [hw]
    · obtain ⟨w, hw, -⟩ := windowAt_of_inRoBuffer h
      simp [hw]
  simp [State.readWord, regAt_of_reserved (show 0x05C ≤ k by omega), hw]

theorem State.writeWord_of_inRwBuffer {k : Nat} (h : InRwBuffer k) (s : State) (v : Word) :
    s.writeWord k v = s.storeBytes k (unpackWord v) := by
  obtain ⟨w, hw, hrw⟩ := windowAt_of_inRwBuffer h
  simp [State.writeWord, regAt_of_reserved (show 0x05C ≤ k by omega), hw, hrw]

theorem State.writeWord_of_inRoBuffer {k : Nat} (h : InRoBuffer k) (s : State) (v : Word) :
    s.writeWord k v = s := by
  obtain ⟨w, hw, hro⟩ := windowAt_of_inRoBuffer h
  simp [State.writeWord, regAt_of_reserved (show 0x05C ≤ k by omega), hw, hro]

theorem toNat_append_byte {n : Nat} (x : BitVec n) (b : Byte) :
    (x ++ b).toNat = 256 * x.toNat + b.toNat := by
  rw [BitVec.toNat_append, ← Nat.shiftLeft_add_eq_or_of_lt b.isLt, Nat.shiftLeft_eq, Nat.mul_comm]

theorem packWord_toNat (b0 b1 b2 b3 : Byte) :
    (packWord b0 b1 b2 b3).toNat =
      b0.toNat + 256 * b1.toNat + 65536 * b2.toNat + 16777216 * b3.toNat := by
  simp only [packWord, toNat_append_byte]
  omega

/-- Bit x of a packed word is bit x mod 8 of byte x / 8. -/
theorem packWord_getLsbD (f : Nat → Byte) {x : Nat} (hx : x < 32) :
    (packWord (f 0) (f 1) (f 2) (f 3)).getLsbD x = (f (x / 8)).getLsbD (x % 8) := by
  simp only [packWord, BitVec.getLsbD_append]
  split_ifs with h0 h1 h2
  · rw [show x / 8 = 0 by omega, show x % 8 = x by omega]
  · rw [show x / 8 = 1 by omega, show x % 8 = x - 8 by omega]
  · rw [show x / 8 = 2 by omega, show x % 8 = x - 8 - 8 by omega]
  · rw [show x / 8 = 3 by omega, show x % 8 = x - 8 - 8 - 8 by omega]

@[simp] theorem unpackWord_length (v : Word) : (unpackWord v).length = 4 := rfl

theorem unpackWord_getD_toNat (v : Word) {i : Nat} (hi : i < 4) :
    ((unpackWord v).getD i 0).toNat = v.toNat / 256 ^ i % 256 := by
  have key : ∀ n, (v.extractLsb' n 8).toNat = v.toNat / 2 ^ n % 256 := fun n => by
    rw [BitVec.extractLsb'_toNat, Nat.shiftRight_eq_div_pow]
  match i, hi with
  | 0, _ => exact key 0
  | 1, _ => exact key 8
  | 2, _ => exact key 16
  | 3, _ => exact key 24

/-- A word stored outside MATRIX reads back byte by byte. -/
theorem State.readByte_storeBytes_unpackWord (s : State) {k : Nat} (v : Word) {i : Nat} (hi : i < 4)
    (hk : k + i < 0x800) :
    ((s.storeBytes k (unpackWord v)).readByte (k + i)).toNat = v.toNat / 256 ^ i % 256 := by
  have hin : k ≤ k + i ∧ k + i < k + (unpackWord v).length := ⟨by omega, by simpa using hi⟩
  rw [State.readByte_storeBytes, if_pos hin, cellMask_of_not_matrix (by omega),
    Nat.add_sub_cancel_left, ← unpackWord_getD_toNat v hi]
  exact congrArg BitVec.toNat BitVec.and_allOnes

/-- A store of one word leaves every byte outside the word alone. -/
theorem State.storeBytes_unpackWord_bytesKept (s : State) (k : Nat) (v : Word) :
    BytesKept s (s.storeBytes k (unpackWord v)) k 4 :=
  fun _ h => State.readByte_storeBytes_of_not_mem s h

/-! ## What a write to a word leaves unchanged (20_memory.md R66) -/

/-- A write to a word changes at most the four bytes of the word. -/
theorem State.writeWord_bytesKept (s : State) (k : Nat) (v : Word) :
    BytesKept s (s.writeWord k v) k 4 := by
  rcases s.writeWord_cases k v with ⟨r, -, hw⟩ | hw | hw <;> rw [hw]
  · exact fun j _ => s.writeReg_allBytesKept r v j
  · exact s.storeBytes_unpackWord_bytesKept k v
  · exact fun _ _ => rfl

/-- No write to a word touches the outside world's fields. -/
theorem State.writeWord_envKept (s : State) (k : Nat) (v : Word) : EnvKept s (s.writeWord k v) := by
  rcases s.writeWord_cases k v with ⟨r, -, hw⟩ | hw | hw <;> rw [hw]
  · exact s.writeReg_envKept r v
  all_goals exact ⟨rfl, rfl, rfl, rfl, rfl⟩

/-- Only a write to the word of CMD accepts a command. -/
theorem State.writeWord_pending {k : Nat} (hc : k ≠ 0x004) (s : State) (v : Word) :
    (s.writeWord k v).pending = s.pending := by
  rcases s.writeWord_cases k v with ⟨r, hreg, hw⟩ | hw | hw <;> rw [hw]
  · refine State.writeReg_pending ?_ s v
    rintro rfl
    exact hc (regAt_eq_some_iff.mp hreg)
  · rfl

/-- A write to a word other than CMD and STATUS leaves every register that is not at the word alone. -/
theorem State.readReg_writeWord_of_ne {k : Nat} (hc : k ≠ 0x004) (hs : k ≠ 0x008) {q : Reg}
    (h : regAt k ≠ some q) (s : State) (v : Word) : (s.writeWord k v).readReg q = s.readReg q := by
  rcases s.writeWord_cases k v with ⟨r, hreg, hw⟩ | hw | hw <;> rw [hw]
  · have hk := regAt_eq_some_iff.mp hreg
    refine State.readReg_writeReg_of_ne ?_ ?_ ?_ s v
    · rintro rfl; exact hc hk
    · rintro rfl; exact hs hk
    · rintro rfl; exact h hreg
  · exact s.readReg_storeBytes k _ q

/-! ## The cells of MATRIX (10_state.md R48) -/

/-- Of the 64 bits of a row's two words, the first 33 exist. -/
theorem cellMask_getLsbD {x y : Nat} (hx : x < 64) (hy : y ≤ 32) :
    (cellMask (matrixWindow.base + 8 * y + x / 8)).getLsbD (x % 8) = decide (x < 33) := by
  have hcov : matrixWindow.covers (matrixWindow.base + 8 * y + x / 8) = true := by
    rw [Window.covers_iff]
    simp only [matrixWindow]
    omega
  have hmod : (matrixWindow.base + 8 * y + x / 8 - 0x800) % 8 = x / 8 := by
    simp only [matrixWindow]
    omega
  rw [cellMask, if_pos hcov, hmod]
  split_ifs with hlo hmid
  · have hbit : ∀ j < 8, (0xFF#8).getLsbD j = true := by decide
    rw [hbit _ (by omega)]
    exact (decide_eq_true (by omega)).symm
  · have hbit : ∀ j < 8, (0x01#8).getLsbD j = decide (32 + j < 33) := by decide
    rw [hbit _ (by omega), show 32 + x % 8 = x by omega]
  · simp only [BitVec.getLsbD_zero]
    exact (decide_eq_false (by omega)).symm

/-- There is no cell right of column 32. -/
theorem State.cell_of_ge (s : State) {x y : Nat} (h : 33 ≤ x) (hx : x < 64) (hy : y ≤ 32) :
    s.cell x y = false := by
  rw [State.cell, State.readByte, BitVec.getLsbD_and, cellMask_getLsbD hx hy,
    decide_eq_false (by omega), Bool.and_false]

theorem inRoBuffer_row {y : Nat} (hy : y ≤ 32) :
    InRoBuffer (0x800 + 8 * y) ∧ InRoBuffer (0x804 + 8 * y) := by
  unfold InRoBuffer
  omega

/-- Bit x of a row's first word is the cell in column x. -/
theorem State.readWord_rowLow (s : State) {x y : Nat} (hx : x < 32) (hy : y ≤ 32) :
    (s.readWord (0x800 + 8 * y)).getLsbD x = s.cell x y := by
  rw [State.readWord_of_buffer (.inr (inRoBuffer_row hy).1)]
  exact packWord_getLsbD (fun j => s.readByte (0x800 + 8 * y + j)) hx

/-- Bit x of a row's second word is the cell in column 32 + x, where there is one. -/
theorem State.readWord_rowHigh (s : State) {x y : Nat} (hx : x < 32) (hy : y ≤ 32) :
    (s.readWord (0x804 + 8 * y)).getLsbD x = s.cell (32 + x) y := by
  rw [State.readWord_of_buffer (.inr (inRoBuffer_row hy).2), State.cell,
    show matrixWindow.base + 8 * y + (32 + x) / 8 = 0x804 + 8 * y + x / 8 by
      simp only [matrixWindow]; omega,
    show (32 + x) % 8 = x % 8 by omega]
  exact packWord_getLsbD (fun j => s.readByte (0x804 + 8 * y + j)) hx

/-- A row's second word is its cell in column 32. -/
theorem State.readWord_rowHigh_eq (s : State) {y : Nat} (hy : y ≤ 32) :
    s.readWord (0x804 + 8 * y) = if s.cell 32 y then 1 else 0 := by
  apply BitVec.eq_of_getLsbD_eq
  intro x hx
  rw [s.readWord_rowHigh hx hy]
  rcases eq_or_ne x 0 with rfl | hne
  · cases s.cell 32 y <;> rfl
  · rw [s.cell_of_ge (by omega) (by omega) hy]
    split_ifs <;> simp [BitVec.getLsbD_one, hne]

/-! ## The matrix that PLACE_MATRIX writes (43_matrix.md R220) -/

/-- Bit x of a fold of single bits: one of the start value, or of the list. -/
theorem testBit_foldl_or (l : List (Nat × Nat)) (n x : Nat) :
    (l.foldl (fun w c => w ||| 1 <<< c.1) n).testBit x = (n.testBit x || l.any (·.1 == x)) := by
  induction l generalizing n with
  | nil => simp
  | cons c l ih =>
    have hbit : (1 <<< c.1).testBit x = (c.1 == x) := by
      rw [Nat.one_shiftLeft, Nat.testBit_two_pow, beq_eq_decide]
    rw [List.foldl_cons, ih, Nat.testBit_or, hbit, List.any_cons, Bool.or_assoc]

theorem rowWord_testBit (dark : List (Nat × Nat)) (x y : Nat) :
    (rowWord dark y).testBit x = decide ((x, y) ∈ dark) := by
  rw [rowWord, testBit_foldl_or, Bool.eq_iff_iff]
  simp [and_comm]

/-- Rows of m entries laid end to end: entry k is entry k mod m of row k / m. -/
theorem flatMap_range_map {α : Type} (f : Nat → Nat → α) (n m : Nat) :
    (List.range n).flatMap (fun y => (List.range m).map (f y)) =
      (List.range (n * m)).map (fun k => f (k / m) (k % m)) := by
  induction n with
  | zero => simp
  | succ n ih =>
    rw [List.range_succ, List.flatMap_append, ih, Nat.succ_mul, List.range_add, List.map_append,
      List.flatMap_singleton, List.map_map]
    congr 1
    refine List.map_congr_left fun j hj => ?_
    have hj : j < m := List.mem_range.mp hj
    rw [Function.comp_apply, Nat.mul_comm, Nat.mul_add_div (by omega), Nat.mul_add_mod,
      Nat.div_eq_of_lt hj, Nat.mod_eq_of_lt hj, Nat.add_zero]

/-- Byte k of the matrix store is byte k mod 8 of the word of row k / 8. -/
theorem matrixBytes_getD (dark : List (Nat × Nat)) {k : Nat} (hk : k < 264) :
    (matrixBytes dark).getD k 0 = BitVec.ofNat 8 (rowWord dark (k / 8) >>> (8 * (k % 8))) := by
  have h := flatMap_range_map (fun y j => BitVec.ofNat 8 (rowWord dark y >>> (8 * j))) 33 8
  rw [show matrixBytes dark = _ from h]
  simp [hk]

/-- After the store of a matrix exactly the listed cells are dark. -/
theorem State.cell_storeBytes_matrixBytes (s : State) (dark : List (Nat × Nat)) {x y : Nat}
    (hx : x ≤ 32) (hy : y ≤ 32) :
    (s.storeBytes matrixWindow.base (matrixBytes dark)).cell x y = decide ((x, y) ∈ dark) := by
  have hin : matrixWindow.base ≤ matrixWindow.base + 8 * y + x / 8 ∧
      matrixWindow.base + 8 * y + x / 8 < matrixWindow.base + (matrixBytes dark).length := by
    rw [matrixBytes_length]
    omega
  rw [State.cell, State.readByte_storeBytes, if_pos hin, BitVec.getLsbD_and,
    cellMask_getLsbD (by omega) hy, decide_eq_true (by omega), Bool.and_true, Nat.add_assoc,
    Nat.add_sub_cancel_left, matrixBytes_getD dark (by omega),
    show (8 * y + x / 8) / 8 = y by omega, show (8 * y + x / 8) % 8 = x / 8 by omega,
    BitVec.getLsbD_ofNat, decide_eq_true (by omega), Bool.true_and, Nat.testBit_shiftRight,
    Nat.div_add_mod, rowWord_testBit]

theorem mem_pairCells {side right : Nat} {up : Bool} {c : Nat × Nat}
    (h : c ∈ pairCells side right up) : (c.1 = right ∨ c.1 = right - 1) ∧ c.2 < side := by
  have hcell : ∃ y < side, c = (right, y) ∨ c = (right - 1, y) := by
    have := (List.mem_filter.mp h).1
    cases up <;> simpa using this
  obtain ⟨y, hy, rfl | rfl⟩ := hcell
  · exact ⟨.inl rfl, hy⟩
  · exact ⟨.inr rfl, hy⟩

/-- The traversal stays left of its first column and inside the rows of the symbol. -/
theorem mem_zigzag {side fuel right : Nat} {up : Bool} {c : Nat × Nat}
    (h : c ∈ zigzag side fuel right up) : c.1 ≤ right ∧ c.2 < side := by
  induction fuel generalizing right up with
  | zero => simp [zigzag] at h
  | succ fuel ih =>
    have hskip : (if right = 6 then 5 else right) ≤ right := by split_ifs <;> omega
    rw [zigzag] at h
    split at h
    · simp at h
    · rcases List.mem_append.mp h with hpair | hrest
      · obtain ⟨hx, hy⟩ := mem_pairCells hpair
        exact ⟨by omega, hy⟩
      · obtain ⟨hx, hy⟩ := ih hrest
        exact ⟨by omega, hy⟩

/-- Every cell of the placement order lies inside the symbol. -/
theorem mem_placementOrder {side : Nat} {c : Nat × Nat} (h : c ∈ placementOrder side) :
    c.1 < side ∧ c.2 < side := by
  obtain ⟨hx, hy⟩ := mem_zigzag h
  omega

theorem mem_patternDark {side : Nat} {c : Nat × Nat} (h : c ∈ patternDark side) :
    c.1 < side ∧ c.2 < side := by
  obtain ⟨y, hy, x, hx, rfl⟩ : ∃ y < side, ∃ x < side, (x, y) = c := by
    simpa using (List.mem_filter.mp h).1
  exact ⟨hx, hy⟩

theorem mem_dataDark {order : List (Nat × Nat)} {bits : Bits} {c : Nat × Nat}
    (h : c ∈ dataDark order bits) : c ∈ order := by
  obtain ⟨⟨d, b⟩, hd, rfl⟩ := List.mem_map.mp h
  exact (List.of_mem_zip (List.mem_filter.mp hd).1).1

/-- After a matrix is written the dark cells are the dark pattern cells and the dark data cells. -/
theorem State.cell_writeMatrix (s : State) (v : Nat) (bits : Bits) {x y : Nat} (hx : x ≤ 32)
    (hy : y ≤ 32) : (s.writeMatrix v bits).cell x y =
      decide ((x, y) ∈ patternDark (sideOf v) ++ dataDark (placementOrder (sideOf v)) bits) :=
  s.cell_storeBytes_matrixBytes _ hx hy

/-- No cell outside the symbol is dark after a matrix is written. -/
theorem State.cell_writeMatrix_outside (s : State) (v : Nat) (bits : Bits) {x y : Nat}
    (hx : x ≤ 32) (hy : y ≤ 32) (h : sideOf v ≤ x ∨ sideOf v ≤ y) :
    (s.writeMatrix v bits).cell x y = false := by
  rw [s.cell_writeMatrix v bits hx hy, decide_eq_false_iff_not]
  intro hmem
  have hin : x < sideOf v ∧ y < sideOf v := by
    rcases List.mem_append.mp hmem with hp | hd
    · exact mem_patternDark hp
    · exact mem_placementOrder (mem_dataDark hd)
  omega

/-- A PLACE_MATRIX that ends without an error has met all three checks and written the matrix. -/
theorem execPlaceMatrix_cases {s t : State} (h : execPlaceMatrix s = .next t)
    (herr : t.err = false) :
    ∃ f, finalOperand s = .ok f ∧ 1 ≤ s.version.toNat ∧ s.version.toNat ≤ 4 ∧
      (bitsOfBytes f).length ≤ (placementOrder (sideOf s.version.toNat)).length ∧
      t = (s.writeMatrix s.version.toNat (bitsOfBytes f)).finish none := by
  rcases complete_cases h with ⟨u, hu, rfl⟩ | ⟨e, -, rfl⟩
  · cases hf : finalOperand s with
    | error e => simp [hf] at hu
    | ok f =>
      simp only [hf] at hu
      split_ifs at hu with hversion
      cases hu
      rw [Config.maxMatrixVersion] at hversion
      exact ⟨f, rfl, by omega, by omega, by omega, rfl⟩
  · simp at herr

/-- SIDE holds the side of a version 1 to 4 in full. -/
theorem State.writeMatrix_side_toNat (s : State) {v : Nat} (hv : v ≤ 4) (bits : Bits) :
    (s.writeMatrix v bits).side.toNat = sideOf v := by
  rw [State.writeMatrix_side, BitVec.toNat_ofNat, sideOf]
  omega

/-! ## The obligations -/

/-- Settles O16: a buffer word packs and unpacks its four bytes, a row of MATRIX is two such words
whose bits are its cells, and PLACE_MATRIX darkens no cell outside the symbol. -/
theorem bufferWordsAreLittleEndian : Obligations.BufferWordsAreLittleEndian := by
  refine ⟨?read, ?write, ?rows, ?readOnly, ?outside⟩
  case read =>
    rintro s a hbuf ⟨hp, hr⟩
    refine ⟨s.readWord (wordAddress a), busRead_of_idle hp hr a, ?_⟩
    rw [State.readWord_of_buffer hbuf, packWord_toNat]
  case write =>
    rintro s a v hbuf ⟨hp, hr⟩
    rw [busWrite_of_idle hp hr, State.writeWord_of_inRwBuffer hbuf]
    exact ⟨fun i hi => s.readByte_storeBytes_unpackWord v hi (by omega),
      s.storeBytes_unpackWord_bytesKept _ v, fun r _ _ => s.readReg_storeBytes _ _ r, rfl, hp,
      rfl, rfl, rfl, rfl, rfl⟩
  case rows =>
    rintro s a y hy ⟨hp, hr⟩
    rw [busRead_of_idle hp hr]
    refine ⟨fun ha => ⟨_, rfl, fun x hx => ?_⟩, fun ha => ?_⟩
    · rw [ha, s.readWord_rowLow (by omega) hy]
    · rw [ha, s.readWord_rowHigh_eq hy, State.reply]
  case readOnly =>
    rintro s a v hlo hhi ⟨hp, hr⟩
    rw [busWrite_of_idle hp hr, State.writeWord_of_inRoBuffer (.inr ⟨hlo, hhi⟩)]
  case outside =>
    intro s t hexec herr x y hx hy hout
    obtain ⟨f, -, -, hv, -, rfl⟩ := execPlaceMatrix_cases hexec herr
    rw [State.finish_side, s.writeMatrix_side_toNat hv] at hout
    exact s.cell_writeMatrix_outside _ _ hx hy hout

/-- Settles O18: a read is a reply and perhaps a draw, an idle write is the write to its word, and in
a BUSY window a write is a set of HAZ. -/
theorem accessSideEffects : Obligations.AccessSideEffects := by
  refine ⟨fun s a => ?read, ?write, fun s a v ⟨hb, hr⟩ => busWrite_of_busy hb hr a v⟩
  case read =>
    by_cases hidle : Idle s
    · exact ⟨_, s.draws, busRead_of_idle hidle.1 hidle.2 a, fun _ => ⟨rfl, rfl⟩⟩
    · rcases busRead_cases s a with ⟨v, hv⟩ | hv
      · exact ⟨v, s.draws, hv, fun h => absurd h hidle⟩
      · exact ⟨_, s.draws + 1, hv, fun h => absurd h hidle⟩
  case write =>
    rintro s a v ⟨hp, hr⟩ hc hs
    have hstatus : regAt (wordAddress a) ≠ some .status :=
      fun h => hs (regAt_eq_some_iff.mp h)
    rw [busWrite_of_idle hp hr]
    exact ⟨State.readReg_writeWord_of_ne hc hs hstatus s v,
      (State.writeWord_pending hc s v).trans hp, s.writeWord_envKept _ v,
      s.writeWord_bytesKept _ v, fun r h => State.readReg_writeWord_of_ne hc hs h s v⟩

end Sys2Proof.Machine
end

section
/-! SUPPORT. Proofs about the encoding of command words (30_encoding.md): the decoder and `opcode` read
the same table, and the words outside it are illegal. -/

namespace Sys2Proof

/-! ## The opcode map, read both ways (30_encoding.md R83) -/

@[simp] theorem decodeOpcode_opcode (i : Instr) : decodeOpcode (opcode i) = some i := by
  cases i <;> rfl

theorem opcode_of_decodeOpcode {n : Nat} {i : Instr} (h : decodeOpcode n = some i) :
    opcode i = n := by
  unfold decodeOpcode at h
  split at h <;> cases h <;> rfl

theorem decodeOpcode_eq_none_iff {n : Nat} : decodeOpcode n = none ↔ ∀ i, opcode i ≠ n := by
  constructor
  · rintro h i rfl
    simp at h
  · intro h
    cases hd : decodeOpcode n with
    | none => rfl
    | some i => exact absurd (opcode_of_decodeOpcode hd) (h i)

/-- The ranges that `WellFormed.opcodeAssigned` excludes are exactly the gaps of the map. -/
theorem WellFormed.opcodeAssigned_eq_false_iff {w : Word} :
    WellFormed.opcodeAssigned w = false ↔ ∀ i, opcode i ≠ w.toNat % 256 := by
  have hlt : w.toNat % 256 < 256 := Nat.mod_lt _ (by decide)
  simp only [WellFormed.opcodeAssigned, Bool.not_eq_false', Bool.or_eq_true, Bool.and_eq_true,
    decide_eq_true_eq]
  generalize w.toNat % 256 = n at hlt ⊢
  constructor
  · intro hgap i
    cases i <;> simp only [opcode] <;> omega
  · intro h
    have hnone : decodeOpcode n = none := decodeOpcode_eq_none_iff.mpr h
    unfold decodeOpcode at hnone
    split at hnone <;> simp only [reduceCtorEq, imp_false] at *
    omega

/-! ## Decoding (30_encoding.md R82, R85) -/

theorem decode_of_opcode {w : Word} {i : Instr} (hres : w.toNat / 256 = 0)
    (hop : opcode i = w.toNat % 256) : decode w = .command i := by
  simp [decode, hres, ← hop]

theorem decode_of_reserved {w : Word} (hres : w.toNat / 256 ≠ 0) :
    decode w = .illegal .reservedBits :=
  if_neg hres

theorem decode_of_unassigned {w : Word} (hres : w.toNat / 256 = 0)
    (hop : ∀ i, opcode i ≠ w.toNat % 256) : decode w = .illegal .unassignedOpcode := by
  simp [decode, hres, decodeOpcode_eq_none_iff.mpr hop]

theorem exists_decode_eq_illegal {w : Word}
    (h : w.toNat / 256 ≠ 0 ∨ ∀ i, opcode i ≠ w.toNat % 256) : ∃ why, decode w = .illegal why := by
  by_cases hres : w.toNat / 256 = 0
  · exact ⟨_, decode_of_unassigned hres (h.resolve_left (not_not_intro hres))⟩
  · exact ⟨_, decode_of_reserved hres⟩

theorem WellFormed.word_eq_false {w : Word}
    (h : w.toNat / 256 ≠ 0 ∨ ∀ i, opcode i ≠ w.toNat % 256) : WellFormed.word w = false := by
  rw [WellFormed.word, Bool.and_eq_false_iff, WellFormed.opcodeAssigned_eq_false_iff]
  exact h.imp_left beq_false_of_ne

namespace Machine

theorem engineStep_of_illegal {w : Word} {why : IllegalReason} (h : decode w = .illegal why)
    (s : State) : engineStep s w = .next (s.finish (some .illegalCommand)) := by
  rw [engineStep, h, complete_error]

/-- While idle, a write to CMD accepts the word, whatever it decodes to (10_state.md R22). -/
theorem busWrite_cmd {s : State} (hp : s.pending = none) (hr : s.resetIn = false) {a : Addr}
    (ha : wordAddress a = 0x004) (w : Word) : busWrite s a w = s.accept w := by
  have hreg : regAt (wordAddress a) = some .cmd := by rw [ha]; rfl
  rw [busWrite_of_reg hp hr hreg, State.writeReg]

/-! ## The obligations -/

/-- Settles O3: a word is a command or illegal by its reserved field and the opcode map, and an
illegal one ends as every failed completion does. -/
theorem everyWordIsACommandOrIllegal : Obligations.EveryWordIsACommandOrIllegal := by
  refine ⟨fun w hres i hop => decode_of_opcode hres hop, fun w h => ?illegal, ?accepted⟩
  case illegal =>
    obtain ⟨why, hwhy⟩ := exists_decode_eq_illegal h
    exact ⟨⟨why, hwhy⟩, WellFormed.word_eq_false h, engineStep_of_illegal hwhy⟩
  case accepted =>
    rintro w s a ha ⟨hp, hr⟩
    rw [busWrite_cmd hp hr ha]
    exact ⟨rfl, rfl⟩

/-- Settles O1: the 19 words by evaluation of the decoder, and the unassigned ranges by the gaps of
the opcode map. -/
theorem commandWordsDecodeToTheirCommands : Obligations.CommandWordsDecodeToTheirCommands := by
  refine ⟨by decide, by decide, by decide, fun n hn hgap => ?_⟩
  refine decode_of_unassigned (by rw [BitVec.toNat_ofNat]; omega)
    (WellFormed.opcodeAssigned_eq_false_iff.mp ?_)
  simp only [WellFormed.opcodeAssigned, BitVec.toNat_ofNat, Bool.not_eq_false', Bool.or_eq_true,
    Bool.and_eq_true, decide_eq_true_eq]
  omega

end Machine
end Sys2Proof
end

section
/-! SUPPORT. Proofs about GF(256) (40_gf256.md): the ROMs are the powers of α and their logarithms, the
product by logarithms is multiplication of polynomials modulo 0x11D, and the term commands write GF_R
alone. -/

namespace Sys2Proof.Machine

/-! ## Commands that write GF_R -/

/-- What a successful completion keeps is what the command's own writes kept (60_exceptions.md R264). -/
theorem State.finish_succeeds {s u : State} (hhaz : u.haz = s.haz) (henv : EnvKept s u) :
    Succeeds s (u.finish none) := by
  refine ⟨rfl, ?_, henv⟩
  rw [← hhaz]
  cases hu : u.haz <;> simp [State.statusWord, State.busy, completedStatus, hu]

/-- A command that computes a byte v for GF_R succeeds with GF_R = v and changes nothing else. -/
theorem complete_gfR (s : State) (v : Byte) :
    ∃ t, complete s (.ok { s with gfR := v }) = .next t ∧ Succeeds s t ∧ t.gfR = v ∧
      RegsKept s t [.gfR] ∧ AllBytesKept s t := by
  refine ⟨_, complete_ok _ _, State.finish_succeeds rfl ⟨rfl, rfl, rfl, rfl, rfl⟩, rfl, ?_,
    fun _ => rfl⟩
  intro r hstatus hgfR
  rw [State.readReg_finish _ _ hstatus]
  cases r with
  | gfR => exact absurd (List.mem_singleton_self _) hgfR
  | _ => rfl

/-! ## Multiplication by x -/

/-- Below 256 the carry of a doubling is bit 7. -/
theorem timesX_eq_xor {v : Nat} (hv : v < 256) :
    timesX v = 2 * v ^^^ (if v.testBit 7 then 0x11D else 0) := by
  have hcarry : v.testBit 7 = decide (2 * v ≥ 256) := by
    rw [Nat.testBit_eq_decide_div_mod_eq, decide_eq_decide]
    omega
  by_cases h : 2 * v ≥ 256 <;> simp [timesX, hcarry, h]

theorem timesX_lt {v : Nat} (hv : v < 256) : timesX v < 256 := by
  revert v
  decide +kernel

theorem timesX_of_lt {v : Nat} (hv : v < 128) : timesX v = 2 * v :=
  if_neg (by omega)

/-- Multiplication by x distributes over the addition of the field. -/
theorem timesX_xor {u v : Nat} (hu : u < 256) (hv : v < 256) :
    timesX (u ^^^ v) = timesX u ^^^ timesX v := by
  have huv : u ^^^ v < 256 := Nat.xor_lt_two_pow (n := 8) hu hv
  have hdouble : 2 * (u ^^^ v) = 2 * u ^^^ 2 * v := by
    simpa [Nat.shiftLeft_eq, Nat.mul_comm] using Nat.shiftLeft_xor_distrib (i := 1) (a := u) (b := v)
  have hcarry : (if (u ^^^ v).testBit 7 then 0x11D else 0) =
      (if u.testBit 7 then 0x11D else 0) ^^^ (if v.testBit 7 then 0x11D else 0) := by
    rw [Nat.testBit_xor]
    cases u.testBit 7 <;> cases v.testBit 7 <;> rfl
  rw [timesX_eq_xor huv, timesX_eq_xor hu, timesX_eq_xor hv, hdouble, hcarry]
  ac_rfl

/-! ## The powers of α -/

theorem alphaPow_lt (n : Nat) : alphaPow n < 256 := by
  induction n with
  | zero => decide
  | succ n ih => exact timesX_lt ih

/-- Each entry of the EXP ROM is the one before it times x (40_gf256.md R101). -/
theorem expRom_succ : ∀ n < 255,
    (expRom (BitVec.ofNat 8 (n + 1))).toNat = timesX (expRom (BitVec.ofNat 8 n)).toNat := by
  decide +kernel

theorem expRom_ofNat {n : Nat} (hn : n < 256) :
    (expRom (BitVec.ofNat 8 n)).toNat = alphaPow n := by
  induction n with
  | zero => rfl
  | succ n ih => rw [expRom_succ n (by omega), ih (by omega), alphaPow]

/-- The EXP ROM holds the powers of α. -/
@[simp] theorem expRom_toNat (a : Byte) : (expRom a).toNat = alphaPow a.toNat := by
  rw [← expRom_ofNat a.isLt, BitVec.ofNat_toNat, BitVec.setWidth_eq]

/-- α has order 255: the last entry of the EXP ROM is 1. -/
theorem alphaPow_add_255 (n : Nat) : alphaPow (n + 255) = alphaPow n := by
  induction n with
  | zero => exact (expRom_ofNat (by decide)).symm
  | succ n ih => rw [Nat.add_right_comm, alphaPow, ih, alphaPow]

theorem alphaPow_mod_255 (n : Nat) : alphaPow (n % 255) = alphaPow n :=
  Function.Periodic.map_mod_nat alphaPow_add_255 n

/-! ## Logarithms -/

theorem logRom_zero : logRom 0 = none := rfl

/-- The LOG ROM inverts the EXP ROM on the nonzero bytes, with an exponent below 255 (R100). -/
theorem romEntry_logRows_spec : ∀ v : Byte, v ≠ 0 →
    (romEntry logRows v.toNat).toNat < 255 ∧ expRom (romEntry logRows v.toNat) = v := by
  decide +kernel

theorem logRom_spec {v : Byte} (hv : v ≠ 0) :
    ∃ l, logRom v = some l ∧ l.toNat < 255 ∧ expRom l = v :=
  ⟨_, if_neg hv, romEntry_logRows_spec v hv⟩

theorem logRom_expRom : ∀ a : Byte, a.toNat < 255 → logRom (expRom a) = some a := by
  decide +kernel

/-- The exponent below 255 whose power is v is the logarithm of v. -/
theorem logRom_of_alphaPow {v : Byte} {x : Nat} (hx : x < 255) (h : alphaPow x = v.toNat) :
    logRom v = some (BitVec.ofNat 8 x) := by
  have hv : expRom (BitVec.ofNat 8 x) = v :=
    BitVec.eq_of_toNat_eq ((expRom_ofNat (by omega)).trans h)
  rw [← hv, logRom_expRom]
  rw [BitVec.toNat_ofNat]
  omega

/-! ## The product by logarithms (40_gf256.md R106, R107) -/

theorem mula_toNat (a b : Byte) : (mula a b).toNat =
    if a.toNat + b.toNat > 255 then (a.toNat + b.toNat) % 255 else a.toNat + b.toNat := by
  rw [mula, BitVec.toNat_ofNat]
  split_ifs <;> omega

/-- Exponent addition, reduced or not, names the power of the sum. -/
theorem alphaPow_mula (a b : Byte) :
    alphaPow (mula a b).toNat = alphaPow (a.toNat + b.toNat) := by
  rw [mula_toNat]
  split_ifs
  · exact alphaPow_mod_255 _
  · rfl

/-- A product with a factor 0 is 0, since 0 has no logarithm. -/
theorem gmul_eq_zero {a b : Byte} (h : a = 0 ∨ b = 0) : gmul a b = 0 := by
  rcases h with rfl | rfl
  · rfl
  · rw [gmul, logRom_zero]
    cases logRom a <;> rfl

/-- The product of two powers of α is the power of the sum of the exponents. -/
theorem gmul_toNat_of_alphaPow {a b : Byte} {x y : Nat} (hx : x < 255) (hy : y < 255)
    (ha : alphaPow x = a.toNat) (hb : alphaPow y = b.toNat) :
    (gmul a b).toNat = alphaPow (x + y) := by
  rw [gmul, logRom_of_alphaPow hx ha, logRom_of_alphaPow hy hb]
  simp only [expRom_toNat, alphaPow_mula, BitVec.toNat_ofNat]
  congr 1
  omega

/-! ## Polynomial multiplication (40_gf256.md R102) -/

theorem polyTimes_lt {a : Nat} (ha : a < 256) (n b : Nat) : polyTimes a n b < 256 := by
  induction n generalizing b with
  | zero => exact Nat.zero_lt_succ _
  | succ n ih =>
    refine Nat.xor_lt_two_pow (n := 8) (timesX_lt (ih _)) ?_
    split_ifs <;> omega

theorem polyTimes_zero_left (n b : Nat) : polyTimes 0 n b = 0 := by
  induction n generalizing b with
  | zero => rfl
  | succ n ih => simp [polyTimes, ih, timesX]

theorem polyTimes_zero_right (a n : Nat) : polyTimes a n 0 = 0 := by
  induction n with
  | zero => rfl
  | succ n ih => simp [polyTimes, ih, timesX]

/-- The polynomial 1 is the unit: a polynomial of degree below 8 is the sum of its own terms. -/
theorem polyTimes_one_left {n b : Nat} (hn : n ≤ 8) (hb : b < 2 ^ n) : polyTimes 1 n b = b := by
  induction n generalizing b with
  | zero => exact (Nat.lt_one_iff.mp hb).symm
  | succ n ih =>
    have hhalf : b / 2 < 2 ^ n := by omega
    have hpow : 2 ^ n ≤ 2 ^ 7 := Nat.pow_le_pow_right (by decide) (by omega)
    rw [polyTimes, ih (by omega) hhalf, timesX_of_lt (by omega)]
    rcases Nat.mod_two_eq_zero_or_one b with heven | hodd
    · rw [if_neg (by omega), Nat.xor_zero]
      omega
    · rw [if_pos hodd, Nat.xor_one_of_even (even_two_mul _)]
      omega

/-- A factor x may be moved out of the product. -/
theorem polyTimes_timesX {a : Nat} (ha : a < 256) (n b : Nat) :
    polyTimes (timesX a) n b = timesX (polyTimes a n b) := by
  induction n generalizing b with
  | zero => rfl
  | succ n ih =>
    have hterm : (if b % 2 = 1 then a else 0) < 256 := by split_ifs <;> omega
    rw [polyTimes, polyTimes, ih, timesX_xor (timesX_lt (polyTimes_lt ha n _)) hterm,
      apply_ite timesX]
    rfl

/-- The polynomial product of two powers of α, by moving the factors x of the first one out. -/
theorem polyTimes_alphaPow (x y : Nat) :
    polyTimes (alphaPow x) 8 (alphaPow y) = alphaPow (x + y) := by
  induction x with
  | zero => rw [Nat.zero_add]; exact polyTimes_one_left le_rfl (alphaPow_lt y)
  | succ x ih => rw [alphaPow, polyTimes_timesX (alphaPow_lt x), ih, Nat.succ_add, alphaPow]

/-- The product by logarithms is multiplication of polynomials modulo 0x11D. -/
theorem gmul_toNat_eq_polyTimes (a b : Byte) :
    (gmul a b).toNat = polyTimes a.toNat 8 b.toNat := by
  rcases eq_or_ne a 0 with rfl | ha
  · rw [gmul_eq_zero (.inl rfl)]
    exact (polyTimes_zero_left 8 b.toNat).symm
  rcases eq_or_ne b 0 with rfl | hb
  · rw [gmul_eq_zero (.inr rfl)]
    exact (polyTimes_zero_right a.toNat 8).symm
  obtain ⟨x, -, hx, rfl⟩ := logRom_spec ha
  obtain ⟨y, -, hy, rfl⟩ := logRom_spec hb
  rw [gmul_toNat_of_alphaPow hx hy (expRom_toNat x).symm (expRom_toNat y).symm, expRom_toNat,
    expRom_toNat, polyTimes_alphaPow]

/-! ## The obligations -/

/-- Settles O27: zero has no logarithm, and the LOG ROM inverts the EXP ROM on every other byte. -/
theorem gfLogGivesTheLogarithm : Obligations.GfLogGivesTheLogarithm := by
  refine ⟨rfl, fun s => ⟨fun h => ?zero, fun h => ?nonzero⟩⟩
  case zero =>
    have hlog : logRom s.gfA = none := by rw [h, logRom_zero]
    rw [Fails, exec, execGfLog, hlog]
    rfl
  case nonzero =>
    obtain ⟨l, hlog, hlt, hexp⟩ := logRom_spec h
    obtain ⟨t, ht, hsucc, rfl, hkept⟩ := complete_gfR s l
    refine ⟨t, ?_, hsucc, hlt, ?_, hkept⟩
    · rw [exec, execGfLog, hlog, ht]
    · rw [← expRom_toNat, hexp]

/-- Settles O28: GF_R is an entry of the EXP ROM, which is a power of α. -/
theorem gfExpGivesThePower : Obligations.GfExpGivesThePower := by
  refine ⟨rfl, fun s => ?_⟩
  obtain ⟨t, ht, hsucc, hval, hkept⟩ := complete_gfR s (expRom s.gfA)
  exact ⟨t, ht, hsucc, by rw [hval, expRom_toNat], hkept⟩

/-- Settles O29: GF_R is `mula` of the two exponents. -/
theorem gfMulaAddsExponents : Obligations.GfMulaAddsExponents := by
  refine ⟨rfl, fun s => ?_⟩
  obtain ⟨t, ht, hsucc, hval, hkept⟩ := complete_gfR s (mula s.gfA s.gfB)
  exact ⟨t, ht, hsucc, by rw [hval, mula_toNat], hkept⟩

/-- Settles O30: the one write of GF_XOR is the sum of its operands to GF_R. -/
theorem gfXorAddsElements : Obligations.GfXorAddsElements :=
  ⟨rfl, fun s => complete_gfR s (s.gfA ^^^ s.gfB)⟩

/-- Settles O31: GF_R is `gmul` of the operands, 0 at a factor 0 and by the sum of the logarithms
elsewhere. -/
theorem gfMulMultipliesElements : Obligations.GfMulMultipliesElements := by
  refine ⟨rfl, fun s => ?_⟩
  obtain ⟨t, ht, hsucc, hval, hkept⟩ := complete_gfR s (gmul s.gfA s.gfB)
  refine ⟨t, ht, hsucc, fun hzero => ?_, fun x y hx hy ha hb => ?_, hkept⟩
  · rw [hval, gmul_eq_zero hzero]
  · rw [hval, gmul_toNat_of_alphaPow hx hy ha hb]

/-- Settles O32: GF_XOR by O30, the product by counting the factors x of both operands, and α by the
EXP ROM's entry 1. -/
theorem productIsPolynomialMultiplication : Obligations.ProductIsPolynomialMultiplication := by
  refine ⟨fun s t hexec => ?_, gmul_toNat_eq_polyTimes, rfl⟩
  obtain ⟨-, hxor⟩ := gfXorAddsElements
  obtain ⟨u, hu, -, hval, -⟩ := hxor s
  obtain rfl : u = t := by simpa [hu] using hexec
  exact hval

end Sys2Proof.Machine
end

section
/-! SUPPORT. Proofs about mode and version selection, the capacity ROM and the indicators
(41_bitstream.md sections 1 to 5): the model's selection functions and tables are the printed ones,
and their commands write the listed registers alone. -/

namespace Sys2Proof.Machine

/-! ## Completion of a command -/

/-- A command whose rule gives the error e fails with its code. -/
theorem fails_of_exec {i : Instr} {s : State} (e : ErrCode) (h : exec i s = complete s (.error e)) :
    Fails i s e.code :=
  h

/-- A success keeps the registers that the command's own writes kept. -/
theorem State.finish_regsKept {s u : State} {ws : List Reg} (h : RegsKept s u ws) :
    RegsKept s (u.finish none) ws := fun r hstatus hr => by
  rw [State.readReg_finish _ _ hstatus, h r hstatus hr]

/-- A number that fits its field is stored in full. -/
theorem toNat_ofNat_of_lt {w n : Nat} (h : n < 2 ^ w) : (BitVec.ofNat w n).toNat = n := by
  rw [BitVec.toNat_ofNat, Nat.mod_eq_of_lt h]

theorem regsKept_mode (s : State) (m : BitVec 4) : RegsKept s { s with mode := m } [.mode] := by
  intro r _ hr
  cases r with
  | mode => simp at hr
  | _ => rfl

theorem regsKept_mode_version (s : State) (m : BitVec 4) (v : BitVec 6) :
    RegsKept s { s with mode := m, version := v } [.mode, .version] := by
  intro r _ hr
  cases r with
  | mode | version => simp at hr
  | _ => rfl

theorem regsKept_field (s : State) (x : BitVec 16) (w : BitVec 5) :
    RegsKept s { s with fieldVal := x, fieldW := w } [.fieldVal, .fieldW] := by
  intro r _ hr
  cases r with
  | fieldVal | fieldW => simp at hr
  | _ => rfl

/-! ## The alphabet (41_bitstream.md R135, R136) -/

/-- Settles O37: the 256 bytes one by one, against the printed order. -/
theorem alphabetValues : Obligations.AlphabetValues := by
  unfold Obligations.AlphabetValues
  decide +kernel

theorem isDigit_iff (b : Byte) : isDigit b = true ↔ 0x30 ≤ b.toNat ∧ b.toNat ≤ 0x39 := by
  simp [isDigit]

theorem isAlnum_iff (b : Byte) : isAlnum b = true ↔ b.toNat ∈ printedAlphabet := by
  rw [isAlnum, alphabetValues b]
  split_ifs with h <;> simp [h]

theorem alnumValue_of_isAlnum {b : Byte} (h : isAlnum b = true) :
    alnumValue b = printedAlphabet.idxOf b.toNat := by
  rw [alnumValue, alphabetValues b, if_pos ((isAlnum_iff b).mp h), Option.getD_some]

theorem alnumValue_lt {b : Byte} (h : isAlnum b = true) : alnumValue b < 45 := by
  rw [alnumValue_of_isAlnum h]
  exact List.idxOf_lt_length_of_mem ((isAlnum_iff b).mp h)

/-! ## Modes (10_state.md R27, 41_bitstream.md R137) -/

theorem modeOf_eq_some_iff (v : BitVec 4) (m : Mode) : modeOf v = some m ↔ v = modeCode m := by
  revert v
  cases m <;> decide

theorem modeOf_eq_none_iff : ∀ v : BitVec 4, modeOf v = none ↔ v.toNat ∉ [1, 2, 4, 8] := by
  decide

/-- The MODE values 1, 2 and 4 are those of the modes other than Kanji. -/
theorem exists_mode_of_mem {v : BitVec 4} (h : v.toNat ∈ [1, 2, 4]) :
    ∃ m, m ≠ .kanji ∧ v = modeCode m := by
  simp only [List.mem_cons, List.not_mem_nil, or_false] at h
  rcases h with h | h | h
  · exact ⟨.numeric, by decide, BitVec.eq_of_toNat_eq h⟩
  · exact ⟨.alphanumeric, by decide, BitVec.eq_of_toNat_eq h⟩
  · exact ⟨.byte, by decide, BitVec.eq_of_toNat_eq h⟩

/-- The selected mode's value is the rule's. -/
theorem modeRule_eq (t : List Byte) : modeRule t = (modeCode (selectMode t)).toNat := by
  simp only [modeRule, selectMode, List.all_eq_true, isDigit_iff, isAlnum_iff]
  split_ifs <;> rfl

/-! ## The least version (41_bitstream.md R139) -/

theorem holds_eq_true_iff (n v : Nat) (l : Level) (m : Mode) :
    holds n l m v = true ↔ n < capacityOf v l m := by
  rw [holds, capacityOf]
  cases capRow v l <;> simp

theorem capVersions_eq_range' : Config.capVersions = List.range' 1 4 := rfl

theorem smallestVersion_eq_some_iff (t : List Byte) (l : Level) (v : Nat) :
    smallestVersion t l = some v ↔
      (1 ≤ v ∧ v ≤ 4) ∧ t.length < capacityOf v l (selectMode t) ∧
        ∀ u, 1 ≤ u → u < v → capacityOf u l (selectMode t) ≤ t.length := by
  rw [smallestVersion, capVersions_eq_range', List.find?_range'_eq_some]
  simp only [holds_eq_true_iff, List.mem_range'_1, Bool.not_eq_true', ← Bool.not_eq_true, not_lt]
  constructor
  · rintro ⟨hfit, hmem, hleast⟩
    exact ⟨by omega, hfit, hleast⟩
  · rintro ⟨hmem, hfit, hleast⟩
    exact ⟨hfit, by omega, hleast⟩

theorem smallestVersion_eq_none_iff (t : List Byte) (l : Level) :
    smallestVersion t l = none ↔
      ∀ v, 1 ≤ v → v ≤ 4 → capacityOf v l (selectMode t) ≤ t.length := by
  rw [smallestVersion, capVersions_eq_range', List.find?_range'_eq_none]
  simp only [holds_eq_true_iff, Bool.not_eq_true', ← Bool.not_eq_true, not_lt]
  exact ⟨fun h v h1 h4 => h v h1 (by omega), fun h v h1 h5 => h v h1 (by omega)⟩

/-! ## The capacity ROM (41_bitstream.md R131) -/

/-- The ROM row a printed row stands for. -/
def CapRow.ofPrinted (row : List Nat) : CapRow where
  total := row.getD 2 0
  ec := row.getD 3 0
  blocks := row.getD 4 0
  numeric := row.getD 7 0
  alphanumeric := row.getD 8 0
  byte := row.getD 9 0
  kanji := row.getD 10 0

/-- The ROM answers the printed row for its version and level. -/
theorem capRow_of_printed : ∀ row ∈ printedCapacities,
    capRow (row.getD 0 0) (levelOf (BitVec.ofNat 2 (row.getD 1 0))) =
      some (CapRow.ofPrinted row) := by
  decide

/-- The printed data counts are the totals less the error correction, and every figure fits its
register (10_state.md R38). -/
theorem printedCapacities_fit : ∀ row ∈ printedCapacities,
    row.getD 2 0 - row.getD 3 0 = row.getD 5 0 ∧ 8 * row.getD 5 0 = row.getD 6 0 ∧
      row.getD 2 0 < 2 ^ 8 ∧ row.getD 3 0 < 2 ^ 7 ∧ row.getD 4 0 < 2 ^ 3 ∧
      ∀ p ∈ modeColumn, row.getD p.2 0 < 2 ^ 8 := by
  decide

/-- The column of a MODE value is the capacity of its mode. -/
theorem modeColumn_spec {m c : Nat} (h : (m, c) ∈ modeColumn) :
    ∃ k, (modeCode k).toNat = m ∧ ∀ row, (CapRow.ofPrinted row).capacity k = row.getD c 0 := by
  simp only [modeColumn, List.mem_cons, Prod.mk.injEq, List.not_mem_nil, or_false] at h
  rcases h with ⟨rfl, rfl⟩ | ⟨rfl, rfl⟩ | ⟨rfl, rfl⟩ | ⟨rfl, rfl⟩
  · exact ⟨.numeric, rfl, fun _ => rfl⟩
  · exact ⟨.alphanumeric, rfl, fun _ => rfl⟩
  · exact ⟨.byte, rfl, fun _ => rfl⟩
  · exact ⟨.kanji, rfl, fun _ => rfl⟩

theorem capRow_eq_none {v : Nat} (h : v = 0 ∨ 4 < v) (l : Level) : capRow v l = none := by
  rw [← Option.not_isSome_iff_eq_none, capRow_isSome]
  omega

/-- The state with the figures of a ROM row for a mode in the CAP registers. -/
def State.withCapacity (s : State) (r : CapRow) (m : Mode) : State :=
  { s with
    capTotal := BitVec.ofNat 8 r.total
    capEc := BitVec.ofNat 7 r.ec
    capBlocks := BitVec.ofNat 3 r.blocks
    capData := BitVec.ofNat 8 (r.total - r.ec)
    capChars := BitVec.ofNat 8 (r.capacity m) }

theorem regsKept_withCapacity (s : State) (r : CapRow) (m : Mode) :
    RegsKept s (s.withCapacity r m) [.capTotal, .capEc, .capBlocks, .capData, .capChars] := by
  intro r _ hr
  cases r with
  | capTotal | capEc | capBlocks | capData | capChars => simp at hr
  | _ => rfl

theorem exec_capLookup_ok {s : State} {r : CapRow} {m : Mode}
    (hr : capRow s.version.toNat (levelOf s.level) = some r) (hm : s.mode = modeCode m) :
    exec .capLookup s = complete s (.ok (s.withCapacity r m)) := by
  rw [exec, execCapLookup, hr, (modeOf_eq_some_iff _ _).mpr hm]
  rfl

theorem exec_capLookup_error {s : State}
    (h : capRow s.version.toNat (levelOf s.level) = none ∨ modeOf s.mode = none) :
    exec .capLookup s = complete s (.error .notFound) := by
  rw [exec, execCapLookup]
  rcases h with h | h
  · rw [h]
  · rw [h]
    cases capRow s.version.toNat (levelOf s.level) <;> rfl

/-- Settles O35: the ROM row is the printed row, and every figure fits its register. -/
theorem capLookupReadsTheTable : Obligations.CapLookupReadsTheTable := by
  refine ⟨rfl, fun s row m c hrow hcol hversion hlevel hmode => ?_, fun s h =>
    fails_of_exec .notFound (exec_capLookup_error ?_)⟩
  · obtain ⟨k, hk, hcapacity⟩ := modeColumn_spec hcol
    obtain ⟨hdata, hbits, htotal, hec, hblocks, hchars⟩ := printedCapacities_fit row hrow
    have hrom := capRow_of_printed row hrow
    rw [hversion, hlevel, BitVec.ofNat_toNat, BitVec.setWidth_eq] at hrom
    have hexec := exec_capLookup_ok hrom (BitVec.eq_of_toNat_eq (hmode.symm.trans hk.symm))
    have hcapData : (BitVec.ofNat 8 (row.getD 2 0 - row.getD 3 0)).toNat = row.getD 5 0 := by
      rw [toNat_ofNat_of_lt (by omega), hdata]
    have hcapChars : (BitVec.ofNat 8 ((CapRow.ofPrinted row).capacity k)).toNat = row.getD c 0 := by
      rw [hcapacity, toNat_ofNat_of_lt (hchars _ hcol)]
    refine ⟨_, hexec, State.finish_succeeds rfl ⟨rfl, rfl, rfl, rfl, rfl⟩,
      toNat_ofNat_of_lt htotal, toNat_ofNat_of_lt hec,
      toNat_ofNat_of_lt hblocks, hcapData.trans hdata.symm, hcapData, ?_, hcapChars,
      State.finish_regsKept (regsKept_withCapacity s _ _), fun _ => rfl⟩
    exact (congrArg (8 * ·) hcapData).trans hbits
  · rcases h with h | h | h
    · exact .inl (capRow_eq_none (.inl h) _)
    · exact .inl (capRow_eq_none (.inr h) _)
    · exact .inr ((modeOf_eq_none_iff _).mpr h)

/-! ## The selection commands -/

/-- Settles O38: MODE becomes the value of the selected mode. -/
theorem selectModeFollowsTheText : Obligations.SelectModeFollowsTheText := by
  refine ⟨rfl, fun s => ⟨fun h => fails_of_exec .invalidArgument ?_, fun h => ?_⟩⟩
  · rw [exec, execSelectMode, textOperand_error h]
  · have hexec : exec .selectMode s =
        complete s (.ok { s with mode := modeCode (selectMode (textOf s)) }) := by
      rw [exec, execSelectMode, textOperand_ok h]
    exact ⟨_, hexec, State.finish_succeeds rfl ⟨rfl, rfl, rfl, rfl, rfl⟩, (modeRule_eq _).symm,
      State.finish_regsKept (regsKept_mode s _), fun _ => rfl⟩

/-- VERSION holds a selected version in full. -/
theorem versionField_toNat {v : Nat} (hv : v ≤ 4) : (BitVec.ofNat 6 v).toNat = v :=
  toNat_ofNat_of_lt (by omega)

/-- Settles O39: the search through the versions in rising order stops at the least that holds the
text. -/
theorem selectVersionIsLeast : Obligations.SelectVersionIsLeast := by
  refine ⟨rfl, fun s => ⟨fun h => fails_of_exec .invalidArgument ?_,
    fun h hnone => fails_of_exec .outOfRange ?_, fun v h h1 h4 hfit hleast => ?_⟩⟩
  · rw [exec, execSelectVersion, textOperand_error h]
  · have hselect : smallestVersion (textOf s) (levelOf s.level) = none := by
      rw [smallestVersion_eq_none_iff, State.readBytes_length]
      exact hnone
    rw [exec, execSelectVersion, textOperand_ok h]
    simp only [hselect]
  · have hselect : smallestVersion (textOf s) (levelOf s.level) = some v := by
      rw [smallestVersion_eq_some_iff, State.readBytes_length]
      exact ⟨⟨h1, h4⟩, hfit, hleast⟩
    have hexec : exec .selectVersion s = complete s
        (.ok { s with mode := modeCode (selectMode (textOf s)), version := BitVec.ofNat 6 v }) := by
      rw [exec, execSelectVersion, textOperand_ok h]
      simp only [hselect]
    exact ⟨_, hexec, State.finish_succeeds rfl ⟨rfl, rfl, rfl, rfl, rfl⟩, (modeRule_eq _).symm,
      versionField_toNat h4, State.finish_regsKept (regsKept_mode_version s _ _), fun _ => rfl⟩

/-! ## The indicators (41_bitstream.md R141, R142) -/

/-- The count width is the printed one, for the versions and modes that have one. -/
theorem countWidth_eq_some {v : Nat} {m : Mode} (h1 : 1 ≤ v) (h40 : v ≤ 40) (hm : m ≠ .kanji) :
    countWidth v m = some (widthRule v (modeCode m).toNat) := by
  have hversion : ¬(v = 0 ∨ Config.maxCountVersion < v) := by
    rw [Config.maxCountVersion]
    omega
  cases m with
  | kanji => exact absurd rfl hm
  | _ =>
    rw [countWidth.eq_def, if_neg hversion, widthRule]
    by_cases h9 : v ≤ 9
    · simp only [if_pos h9]
      rfl
    · by_cases h26 : v ≤ 26
      · simp only [if_neg h9, if_pos h26]
        rfl
      · simp only [if_neg h9, if_neg h26]
        rfl

theorem countWidth_eq_none {v : Nat} {m : Mode} (h : v = 0 ∨ 40 < v ∨ m = .kanji) :
    countWidth v m = none := by
  rw [countWidth.eq_def]
  by_cases hversion : v = 0 ∨ 40 < v
  · exact if_pos hversion
  · obtain rfl : m = .kanji := (h.resolve_left (by omega)).resolve_left (by omega)
    exact if_neg hversion

/-- Every printed width is between 8 and 16 bits. -/
theorem widthRule_range (v m : Nat) : 8 ≤ widthRule v m ∧ widthRule v m ≤ 16 := by
  simp only [widthRule]
  split_ifs <;> decide

/-- Settles O40: the three answers are the branches of the mode a MODE value stands for. -/
theorem modeIndicator : Obligations.ModeIndicator := by
  refine ⟨rfl, fun s => ⟨fun h => fails_of_exec .notImplemented ?_,
    fun h => fails_of_exec .invalidArgument ?_, fun h => ?_⟩⟩
  · rw [exec, execModeInd, (modeOf_eq_some_iff s.mode .kanji).mpr (BitVec.eq_of_toNat_eq h)]
  · rw [exec, execModeInd, (modeOf_eq_none_iff _).mpr h]
  · obtain ⟨m, hkanji, hm⟩ := exists_mode_of_mem h
    have hexec : exec .modeInd s =
        complete s (.ok { s with fieldVal := (modeCode m).setWidth 16, fieldW := 4 }) := by
      rw [exec, execModeInd, (modeOf_eq_some_iff _ _).mpr hm]
      cases m with
      | kanji => exact absurd rfl hkanji
      | _ => rfl
    refine ⟨_, hexec, State.finish_succeeds rfl ⟨rfl, rfl, rfl, rfl, rfl⟩, ?_, rfl,
      State.finish_regsKept (regsKept_field s _ _), fun _ => rfl⟩
    rw [hm]
    exact BitVec.toNat_setWidth_of_le (by decide)

/-- COUNT_IND past its checks: the length is stored if it fits the width. -/
theorem exec_countInd_of_width {s : State} {m : Mode} {w : Nat} (htext : s.textLen.toNat ≤ 256)
    (hm : s.mode = modeCode m) (hw : countWidth s.version.toNat m = some w) :
    exec .countInd s = complete s (
      if 2 ^ w ≤ s.textLen.toNat then .error .outOfRange
      else .ok { s with fieldVal := s.textLen.setWidth 16, fieldW := BitVec.ofNat 5 w }) := by
  have hmax : ¬Config.textMax < s.textLen.toNat := Nat.not_lt.mpr htext
  rw [exec, execCountInd, if_neg hmax, (modeOf_eq_some_iff _ _).mpr hm]
  simp only [hw]

theorem exec_countInd_error {s : State} (h : 256 < s.textLen.toNat ∨ s.mode.toNat ∉ [1, 2, 4] ∨
      s.version.toNat = 0 ∨ 40 < s.version.toNat) :
    exec .countInd s = complete s (.error .invalidArgument) := by
  rw [exec, execCountInd]
  split_ifs with htext
  · rfl
  cases hm : modeOf s.mode with
  | none => rfl
  | some m =>
    have hnone : countWidth s.version.toNat m = none := by
      refine countWidth_eq_none ?_
      rcases h.resolve_left htext with hmode | hv | hv
      · rw [(modeOf_eq_some_iff _ _).mp hm] at hmode
        cases m with
        | kanji => exact .inr (.inr rfl)
        | _ => exact absurd (by decide) hmode
      · exact .inl hv
      · exact .inr (.inl hv)
    simp only [hnone]

/-- Settles O41: past the checks the width is the printed one, and the length is stored if it
fits. -/
theorem countIndicator : Obligations.CountIndicator := by
  refine ⟨rfl, fun s => ⟨fun h => fails_of_exec .invalidArgument (exec_countInd_error h),
    fun htext hmode h1 h40 => ?_⟩⟩
  obtain ⟨m, hkanji, hm⟩ := exists_mode_of_mem hmode
  have hexec := exec_countInd_of_width htext hm (countWidth_eq_some h1 h40 hkanji)
  rw [← hm] at hexec
  refine ⟨fun hbig => fails_of_exec .outOfRange ?_, fun hfits => ?_⟩
  · rw [hexec, if_pos hbig]
  · rw [if_neg (by omega)] at hexec
    refine ⟨_, hexec, State.finish_succeeds rfl ⟨rfl, rfl, rfl, rfl, rfl⟩,
      BitVec.toNat_setWidth_of_le (by decide), ?_, State.finish_regsKept (regsKept_field s _ _),
      fun _ => rfl⟩
    obtain ⟨-, hwidth⟩ := widthRule_range s.version.toNat s.mode.toNat
    exact toNat_ofNat_of_lt (by omega)

end Sys2Proof.Machine
end

section
/-! SUPPORT. Proofs about bit strings (00_scope.md R8, 10_state.md R44) and the data bits of a text
(41_bitstream.md section 4): the bits of a numeral and of a packed byte, and the fields of the
numeric, alphanumeric and byte encodings. -/

namespace Sys2Proof.Machine

/-! ## Numerals (00_scope.md R8) -/

theorem bitlen_le_iff {k : Nat} (hk : 1 ≤ k) (v : Nat) : bitlen v ≤ k ↔ v < 2 ^ k := by
  rw [bitlen]
  split_ifs with hv
  · simp [hv, hk]
  · exact Nat.log2_lt hv

theorem one_le_bitlen (v : Nat) : 1 ≤ bitlen v := by
  rw [bitlen]
  split_ifs <;> omega

theorem bin_length_of_lt {w v : Nat} (hw : 1 ≤ w) (hv : v < 2 ^ w) : (bin w v).length = w := by
  rw [bin_length, max_eq_left ((bitlen_le_iff hw v).mpr hv)]

/-- The bits of a numeral, most significant first. -/
theorem bin_getD {w v i : Nat} (hi : i < max w (bitlen v)) :
    (bin w v).getD i false = v.testBit (max w (bitlen v) - 1 - i) := by
  rw [bin, List.getD_eq_getElem _ _ (by simpa using hi)]
  simp

theorem bin_getD_of_lt {w v i : Nat} (hv : v < 2 ^ w) (hi : i < w) :
    (bin w v).getD i false = v.testBit (w - 1 - i) := by
  have hlen : max w (bitlen v) = w := max_eq_left ((bitlen_le_iff (by omega) v).mpr hv)
  rw [bin_getD (by omega), hlen]

theorem bitsValue_concat (s : Bits) (b : Bool) :
    bitsValue (s ++ [b]) = 2 * bitsValue s + b.toNat := by
  simp [bitsValue]

/-- Bit k of the number a bit string stands for is its k-th bit from the right. -/
theorem bitsValue_testBit (s : Bits) (k : Nat) :
    (bitsValue s).testBit k = s.reverse.getD k false := by
  induction s using List.reverseRecOn generalizing k with
  | nil => simp [bitsValue]
  | append_singleton s b ih =>
    rw [bitsValue_concat, List.reverse_append, List.reverse_singleton, List.singleton_append]
    cases k with
    | zero => cases b <;> simp
    | succ k =>
      rw [List.getD_cons_succ, ← ih, Nat.testBit_succ]
      rw [Nat.mul_add_div (by decide), Nat.div_eq_of_lt (Bool.toNat_lt b), Nat.add_zero]

/-- A numeral stands for its number: `bin` never truncates. -/
@[simp] theorem bitsValue_bin (w v : Nat) : bitsValue (bin w v) = v := by
  refine Nat.eq_of_testBit_eq fun k => ?_
  rw [bitsValue_testBit]
  by_cases hk : k < max w (bitlen v)
  · rw [List.getD_reverse _ (by rwa [bin_length]), bin_length, bin_getD (by omega)]
    congr 1
    omega
  · have hv : v < 2 ^ k :=
      (bitlen_le_iff (by have := one_le_bitlen v; omega) v).mp (by omega)
    rw [List.getD_eq_default _ _ (by simpa using hk), Nat.testBit_lt_two_pow hv]

/-! ## Bytes of a bit string (10_state.md R44) -/

theorem byteOfBits_eq (s : Bits) :
    byteOfBits s = BitVec.ofNat 8 (bitsValue ((List.range 8).map (s.getD · false))) := by
  rw [byteOfBits, bitsValue, List.foldl_map]

/-- The first bit of a byte is its most significant one. -/
theorem byteOfBits_getLsbD (s : Bits) {j : Nat} (hj : j < 8) :
    (byteOfBits s).getLsbD (7 - j) = s.getD j false := by
  rw [byteOfBits_eq, BitVec.getLsbD_ofNat, decide_eq_true (by omega), Bool.true_and,
    bitsValue_testBit, List.getD_reverse _ (by simp; omega)]
  have hindex : 8 - 1 - (7 - j) = j := by omega
  simp [hindex, hj]

theorem packBytes_getD {n k : Nat} (hk : k < n) (s : Bits) :
    (packBytes n s).getD k 0 = byteOfBits ((s.drop (8 * k)).take 8) := by
  induction n generalizing s k with
  | zero => omega
  | succ n ih =>
    cases k with
    | zero => rfl
    | succ k => rw [packBytes, List.getD_cons_succ, ih (by omega), List.drop_drop, Nat.mul_succ,
        Nat.add_comm]

/-- Stream bit i of packed bits is bit i of the string, 0 past its end. -/
theorem packBits_getD_getLsbD (s : Bits) {i : Nat} (hi : i < (s.length + 7) / 8 * 8) :
    ((packBits s).getD (i / 8) 0).getLsbD (7 - i % 8) = s.getD i false := by
  rw [packBits, packBytes_getD (by omega), byteOfBits_getLsbD _ (by omega)]
  have hindex : 8 * (i / 8) + i % 8 = i := Nat.div_add_mod i 8
  have hj : i % 8 < 8 := by omega
  simp [hj, hindex]

/-- Blocks of eight bits laid end to end: bit 8k + i is bit i of block k. -/
theorem flatMap_getD_of_length_eight {α : Type} {f : α → Bits} (hf : ∀ a, (f a).length = 8)
    (l : List α) (d : α) {k i : Nat} (hk : k < l.length) (hi : i < 8) :
    (l.flatMap f).getD (8 * k + i) false = (f (l.getD k d)).getD i false := by
  induction l generalizing k with
  | nil => simp at hk
  | cons a l ih =>
    rw [List.flatMap_cons]
    cases k with
    | zero => rw [List.getD_append _ _ _ _ (by rw [hf]; omega), Nat.mul_zero, Nat.zero_add]; rfl
    | succ k =>
      have hk' : k < l.length := by simpa using hk
      rw [List.getD_append_right _ _ _ _ (by rw [hf]; omega), hf, List.getD_cons_succ, ← ih hk']
      congr 1
      omega

/-! ## Byte data (41_bitstream.md R145) -/

/-- Settles O44: the bits of a byte string are its bytes' eight bits end to end. -/
theorem byteBitsMostSignificantFirst : Obligations.ByteBitsMostSignificantFirst := by
  refine fun t => ⟨bitsOfBytes_length t, fun k i hk hi => ?_⟩
  have h := flatMap_getD_of_length_eight (f := bin8) (by simp [bin8]) t 0 hk hi
  rw [byteBits, bitsOfBytes, h]
  simp [bin8, hi]

/-! ## Numeric data (41_bitstream.md R143) -/

theorem numericBits_of_length_le {g : List Byte} (h1 : 1 ≤ g.length) (h3 : g.length ≤ 3) :
    numericBits g = numericGroup g := by
  match g, h1, h3 with
  | [_], _, _ => rfl
  | [_, _], _, _ => rfl
  | [_, _, _], _, _ => exact List.append_nil _

theorem numericBits_append {g : List Byte} (h : g.length = 3) (t : List Byte) :
    numericBits (g ++ t) = numericGroup g ++ numericBits t := by
  obtain ⟨a, b, c, rfl⟩ := List.length_eq_three.mp h
  rfl

/-- n digits stand for a number below 10 ^ n. -/
theorem decimalValue_lt {g : List Byte} (h : ∀ b ∈ g, isDigit b = true) :
    decimalValue g < 10 ^ g.length := by
  induction g using List.reverseRecOn with
  | nil => decide
  | append_singleton g b ih =>
    have hg := ih fun c hc => h c (by simp [hc])
    have hb := (isDigit_iff b).mp (h b (by simp))
    simp only [decimalValue, List.foldl_append, List.foldl_cons, List.foldl_nil, List.length_append,
      List.length_singleton, pow_succ] at hg ⊢
    omega

/-- The width of a group: 10 bits from 100 on, else the natural length but at least 4 bits. -/
theorem numericGroup_length {g : List Byte} (h : decimalValue g < 1000) :
    (numericGroup g).length =
      if 100 ≤ decimalValue g then 10 else if 64 ≤ decimalValue g then 7
      else if 32 ≤ decimalValue g then 6 else if 16 ≤ decimalValue g then 5 else 4 := by
  have h4 := bitlen_le_iff (k := 4) (by decide) (decimalValue g)
  have h5 := bitlen_le_iff (k := 5) (by decide) (decimalValue g)
  have h6 := bitlen_le_iff (k := 6) (by decide) (decimalValue g)
  have h7 := bitlen_le_iff (k := 7) (by decide) (decimalValue g)
  have h10 := bitlen_le_iff (k := 10) (by decide) (decimalValue g)
  simp only [numericGroup, bin_length]
  split_ifs <;> omega

/-- Settles O42: the text is cut after every third digit, and a group is the numeral of its
value. -/
theorem numericBitsByGroups : Obligations.NumericBitsByGroups := by
  refine ⟨rfl, fun g t h => ?_, fun g h1 h3 hdigits => ?_⟩
  · rw [numericBits_append h, numericBits_of_length_le (g := g) (by omega) (by omega)]
  · have hvalue : bitsValue (numericGroup g) = decimalValue g := bitsValue_bin _ _
    have hlt : decimalValue g < 1000 := (decimalValue_lt hdigits).trans_le
      (Nat.pow_le_pow_right (n := 10) (by decide) h3)
    simp only [numericBits_of_length_le h1 h3, hvalue]
    exact ⟨rfl, numericGroup_length hlt⟩

/-- A group of one, two or three digits takes at most 4, 7 or 10 bits. -/
theorem numericGroup_length_le {g : List Byte} (h1 : 1 ≤ g.length) (h3 : g.length ≤ 3)
    (hg : ∀ b ∈ g, isDigit b = true) : (numericGroup g).length ≤ (10 * g.length + 2) / 3 := by
  have hlt := decimalValue_lt hg
  obtain hlen | hlen | hlen : g.length = 1 ∨ g.length = 2 ∨ g.length = 3 := by omega
  all_goals
    rw [hlen] at hlt ⊢
    rw [numericGroup_length (by omega)]
    split_ifs <;> omega

/-- A numeric text takes ten bits for every three digits, rounded up. -/
theorem numericBits_length_le {t : List Byte} (h : ∀ b ∈ t, isDigit b = true) :
    (numericBits t).length ≤ (10 * t.length + 2) / 3 := by
  induction t using numericBits.induct with
  | case1 => decide
  | case2 a => exact numericGroup_length_le (g := [a]) (by simp) (by simp) h
  | case3 a b => exact numericGroup_length_le (g := [a, b]) (by simp) (by simp) h
  | case4 a b c rest ih =>
    have hgroup := numericGroup_length_le (g := [a, b, c]) (by simp) (by simp) fun x hx =>
      h x (List.mem_append_left rest hx)
    have hrest := ih fun x hx => h x (List.mem_append_right [a, b, c] hx)
    simp only [numericBits, List.length_append, List.length_cons, List.length_nil] at hgroup ⊢
    omega

/-! ## Alphanumeric data (41_bitstream.md R144) -/

/-- The field of a pair of alphabet symbols. -/
theorem pairField_length {a b : Byte} (ha : isAlnum a = true) (hb : isAlnum b = true) :
    (bin 11 (45 * alnumValue a + alnumValue b)).length = 11 := by
  have := alnumValue_lt ha
  have := alnumValue_lt hb
  exact bin_length_of_lt (by decide) (by omega)

theorem singleField_length {a : Byte} (ha : isAlnum a = true) :
    (bin 6 (alnumValue a)).length = 6 := by
  have := alnumValue_lt ha
  exact bin_length_of_lt (by decide) (by omega)

theorem alnumBits_length {t : List Byte} (h : ∀ b ∈ t, isAlnum b = true) :
    (alnumBits t).length = 11 * (t.length / 2) + 6 * (t.length % 2) := by
  induction t using alnumBits.induct with
  | case1 => rfl
  | case2 a => simp [alnumBits, singleField_length (h a (by simp))]
  | case3 a b rest ih =>
    rw [alnumBits, List.length_append, pairField_length (h a (by simp)) (h b (by simp)),
      ih fun c hc => h c (by simp [hc])]
    simp only [List.length_cons]
    omega

/-- The fields after the first pair's are those of the text after the first pair. -/
theorem alnumBits_drop {a b : Byte} (ha : isAlnum a = true) (hb : isAlnum b = true)
    (rest : List Byte) (p : Nat) :
    (alnumBits (a :: b :: rest)).drop (11 * (p + 1)) = (alnumBits rest).drop (11 * p) := by
  rw [Nat.mul_succ, Nat.add_comm, ← List.drop_drop, alnumBits,
    List.drop_left' (pairField_length ha hb)]

theorem alnumBits_pair {t : List Byte} (h : ∀ b ∈ t, isAlnum b = true) {p : Nat}
    (hp : p < t.length / 2) :
    bitsValue (((alnumBits t).drop (11 * p)).take 11) =
      45 * alnumValue (t.getD (2 * p) 0) + alnumValue (t.getD (2 * p + 1) 0) := by
  induction t using alnumBits.induct generalizing p with
  | case1 => simp at hp
  | case2 a => simp at hp
  | case3 a b rest ih =>
    have ha := h a (by simp)
    have hb := h b (by simp)
    cases p with
    | zero => rw [Nat.mul_zero, List.drop_zero, alnumBits, List.take_left' (pairField_length ha hb),
        bitsValue_bin]; rfl
    | succ p =>
      rw [alnumBits_drop ha hb, ih (fun c hc => h c (by simp [hc])) (by
        simp only [List.length_cons] at hp
        omega)]
      rfl

theorem alnumBits_single {t : List Byte} (h : ∀ b ∈ t, isAlnum b = true) (hodd : t.length % 2 = 1) :
    bitsValue ((alnumBits t).drop (11 * (t.length / 2))) =
      alnumValue (t.getD (t.length - 1) 0) := by
  induction t using alnumBits.induct with
  | case1 => simp at hodd
  | case2 a => simp [alnumBits]
  | case3 a b rest ih =>
    have hrest : rest.length % 2 = 1 := by
      simp only [List.length_cons] at hodd
      omega
    have hlast : (a :: b :: rest).getD (rest.length + 2 - 1) 0 = rest.getD (rest.length - 1) 0 := by
      rw [show rest.length + 2 - 1 = rest.length - 1 + 1 + 1 by omega, List.getD_cons_succ,
        List.getD_cons_succ]
    have hhalf : (rest.length + 2) / 2 = rest.length / 2 + 1 := by omega
    rw [List.length_cons, List.length_cons, hlast, hhalf,
      alnumBits_drop (h a (by simp)) (h b (by simp)), ih (fun c hc => h c (by simp [hc])) hrest]

theorem isAlnum_getD {t : List Byte} (h : ∀ b ∈ t, isAlnum b = true) {k : Nat} (hk : k < t.length) :
    isAlnum (t.getD k 0) = true := by
  rw [List.getD_eq_getElem _ _ hk]
  exact h _ (List.getElem_mem hk)

/-- Settles O43: each pair of symbols fits its 11 bits and a trailing one its 6, so the fields lie
at fixed places. -/
theorem alphanumericBitsByPairs : Obligations.AlphanumericBitsByPairs := by
  refine fun t h => ⟨alnumBits_length h, fun p hp => ?_, fun hodd => ?_⟩
  · rw [alnumBits_pair h hp, alnumValue_of_isAlnum (isAlnum_getD h (by omega)),
      alnumValue_of_isAlnum (isAlnum_getD h (by omega))]
  · rw [alnumBits_single h hodd, alnumValue_of_isAlnum (isAlnum_getD h (by omega))]

end Sys2Proof.Machine
end

section
/-! SUPPORT. Proofs about the streams BUILD_BITSTREAM and BUILD_PADDED write (41_bitstream.md
sections 4 and 6): the data bits fit BITBUF, the header fits the capacity, and the padded stream fills it. -/

namespace Sys2Proof.Machine

/-! ## Data bits by mode (41_bitstream.md R146) -/

theorem selectMode_numeric {t : List Byte} (h : selectMode t = .numeric) :
    ∀ b ∈ t, isDigit b = true := by
  rw [selectMode] at h
  split_ifs at h with hdigit
  exact List.all_eq_true.mp hdigit

theorem selectMode_alphanumeric {t : List Byte} (h : selectMode t = .alphanumeric) :
    ∀ b ∈ t, isAlnum b = true := by
  rw [selectMode] at h
  split_ifs at h with hdigit halnum
  exact List.all_eq_true.mp halnum

theorem dataBits_eq_dataRule (t : List Byte) : dataBits t = dataRule t := by
  rw [dataBits, dataRule, modeRule_eq]
  cases hm : selectMode t with
  | kanji => exact absurd hm (selectMode_ne_kanji t)
  | _ => rfl

/-- The most bits a text of n bytes takes in a mode (41_bitstream.md R143 to R145). -/
def dataBound (m : Mode) (n : Nat) : Nat :=
  match m with
  | .numeric => (10 * n + 2) / 3
  | .alphanumeric => (11 * n + 1) / 2
  | .byte => 8 * n
  | .kanji => 0

theorem dataBits_length_le (t : List Byte) :
    (dataBits t).length ≤ dataBound (selectMode t) t.length := by
  rw [dataBits]
  cases hm : selectMode t with
  | numeric => exact numericBits_length_le (selectMode_numeric hm)
  | alphanumeric =>
    have hlen := alnumBits_length (selectMode_alphanumeric hm)
    simp only [dataBound]
    omega
  | byte => exact (bitsOfBytes_length t).le
  | kanji => exact le_rfl

/-- No mode takes more than eight bits a byte. -/
theorem dataBound_le (m : Mode) (n : Nat) : dataBound m n ≤ 8 * n := by
  cases m <;> simp only [dataBound] <;> omega

/-! ## Writing BITBUF (41_bitstream.md R155) -/

/-- A stream that fits BITBUF is read back bit by bit, zeros to the end of its last byte. -/
theorem State.streamBit_writeBitbuf (s : State) {bits : Bits} (hlen : bits.length ≤ 2048) {i : Nat}
    (hi : i < (bits.length + 7) / 8 * 8) :
    (s.writeBitbuf bits).streamBit i = bits.getD i false := by
  have hbyte : (s.writeBitbuf bits).readByte (bitbufWindow.base + i / 8) =
      (packBits bits).getD (i / 8) 0 := by
    have hbase : bitbufWindow.base = 0x200 := rfl
    have hstore := s.readByte_storeBytes bitbufWindow.base (packBits bits)
      (bitbufWindow.base + i / 8)
    rw [if_pos (by rw [packBits_length]; omega), cellMask_of_not_matrix (by omega),
      Nat.add_sub_cancel_left] at hstore
    exact hstore.trans BitVec.and_allOnes
  rw [State.streamBit, hbyte, packBits_getD_getLsbD bits hi]

theorem State.writeBitbuf_bytesKept (s : State) (bits : Bits) :
    BytesKept s (s.writeBitbuf bits) 0x200 ((bits.length + 7) / 8) := fun _ hk =>
  s.readByte_storeBytes_of_not_mem (by rwa [packBits_length])

theorem State.writeBitbuf_bitLen_toNat (s : State) {bits : Bits} (hlen : bits.length ≤ 2048) :
    (s.writeBitbuf bits).bitLen.toNat = bits.length :=
  toNat_ofNat_of_lt (by omega)

theorem State.writeBitbuf_regsKept {s u : State} {ws : List Reg} (h : RegsKept s u ws)
    (bits : Bits) : RegsKept s (u.writeBitbuf bits) (ws ++ [.bitLen]) := by
  intro r hstatus hr
  simp only [List.mem_append, List.mem_singleton, not_or] at hr
  obtain ⟨hws, hbitLen⟩ := hr
  rw [← h r hstatus hws]
  cases r with
  | bitLen => exact absurd rfl hbitLen
  | _ => rfl

/-- What a command leaves that sets registers and then writes a stream that fits BITBUF. -/
theorem complete_writeBitbuf {s u : State} {ws : List Reg} {bits : Bits} (hhaz : u.haz = s.haz)
    (henv : EnvKept s u) (hregs : RegsKept s u ws) (hbytes : AllBytesKept s u)
    (hlen : bits.length ≤ 2048) :
    ∃ t, complete s (.ok (u.writeBitbuf bits)) = .next t ∧ Succeeds s t ∧
      t.mode = u.mode ∧ t.version = u.version ∧ t.bitLen.toNat = bits.length ∧
      (∀ i, i < (bits.length + 7) / 8 * 8 → t.streamBit i = bits.getD i false) ∧
      RegsKept s t (ws ++ [.bitLen]) ∧ BytesKept s t 0x200 ((bits.length + 7) / 8) :=
  ⟨_, complete_ok _ _, State.finish_succeeds hhaz henv, rfl, rfl,
    u.writeBitbuf_bitLen_toNat hlen, fun _ hi => u.streamBit_writeBitbuf hlen hi,
    State.finish_regsKept (State.writeBitbuf_regsKept hregs bits),
    fun k hk => (u.writeBitbuf_bytesKept bits k hk).trans (hbytes k)⟩

/-- Settles O45: the data bits fit BITBUF, where they are packed most significant bit first. -/
theorem buildBitstreamWritesTheDataBits : Obligations.BuildBitstreamWritesTheDataBits := by
  refine ⟨rfl, dataBits_eq_dataRule, fun s => ⟨fun h => fails_of_exec .invalidArgument ?_,
    fun h => ?_⟩⟩
  · rw [exec, execBuildBitstream, textOperand_error h]
  · have hlen : (dataBits (textOf s)).length ≤ 2048 := by
      have hdata := dataBits_length_le (textOf s)
      have hbound := dataBound_le (selectMode (textOf s)) (textOf s).length
      rw [State.readBytes_length] at hdata hbound
      omega
    obtain ⟨t, ht, hsucc, hmode, -, hbitLen, hbits, hregs, hbytes⟩ := complete_writeBitbuf
      (s := s) (u := { s with mode := modeCode (selectMode (textOf s)) }) rfl
      ⟨rfl, rfl, rfl, rfl, rfl⟩ (regsKept_mode s _) (fun _ => rfl) hlen
    refine ⟨t, ?_, hsucc, ?_, hbitLen, hbitLen.trans_le hlen,
      fun i hi => ⟨hbits i (by rwa [← hbitLen]), rfl⟩, hregs, hbytes⟩
    · rw [exec, execBuildBitstream, textOperand_ok h, ← ht]
    · rw [hmode, modeRule_eq]

/-! ## The padded stream (41_bitstream.md R150 to R153) -/

/-- The stream of a header filled up to a capacity: terminator, alignment, pad codewords. -/
def fillTo (h : Bits) (c : Nat) : Bits :=
  let h1 := h ++ term h c
  let h2 := h1 ++ align h1
  h2 ++ pad h2 c

/-- Mode indicator, count field and data bits of a text. -/
def streamHeader (t : List Byte) (v : Nat) : Bits :=
  modeInd (selectMode t) ++ countField v (selectMode t) t.length ++ dataBits t

theorem padded_eq_fillTo (t : List Byte) (v : Nat) (l : Level) :
    padded t v l = fillTo (streamHeader t v) (capBits v l) := rfl

/-- Where the pad codewords begin: past the header and terminator, at a byte boundary. -/
def padStart (h : Bits) (c : Nat) : Nat := (h.length + min 4 (c - h.length) + 7) / 8 * 8

theorem padStart_range {h : Bits} {c : Nat} (hfit : h.length ≤ c) (hc : c % 8 = 0) :
    h.length ≤ padStart h c ∧ padStart h c ≤ c := by
  rw [padStart]
  omega

theorem term_eq (h : Bits) (c : Nat) : term h c = zeros (min 4 (c - h.length)) := by
  rw [term]
  split_ifs with hlt
  · rfl
  · rw [Nat.sub_eq_zero_of_le (by omega)]
    rfl

theorem pad_eq (s : Bits) (c : Nat) : pad s c = padBytes ((c - s.length) / 8) := by
  rw [pad]
  split_ifs with hlt
  · rfl
  · rw [Nat.sub_eq_zero_of_le (by omega)]
    rfl

@[simp] theorem zeros_length (k : Nat) : (zeros k).length = k := List.length_replicate

theorem zeros_getD (k i : Nat) : (zeros k).getD i false = false := by
  rw [zeros, List.getD_eq_getElem?_getD, List.getElem?_replicate]
  split_ifs <;> rfl

/-- Terminator and alignment together are zeros up to the pad codewords. -/
theorem fillTo_eq (h : Bits) (c : Nat) :
    fillTo h c = h ++ zeros (padStart h c - h.length) ++ padBytes ((c - padStart h c) / 8) := by
  have halign : h ++ term h c ++ align (h ++ term h c) = h ++ zeros (padStart h c - h.length) := by
    rw [List.append_assoc, term_eq, align, zeros, zeros, zeros, ← List.replicate_add,
      List.length_append, List.length_replicate, padStart]
    congr 2
    omega
  have hlen : (h ++ zeros (padStart h c - h.length)).length = padStart h c := by
    rw [List.length_append, zeros_length, padStart]
    omega
  rw [fillTo, halign, pad_eq, hlen]

/-- The pad codeword of index k. -/
def padCodeword (k : Nat) : Nat := if k % 2 = 0 then 0xEC else 0x11

theorem padCodeword_lt (k : Nat) : padCodeword k < 2 ^ 8 := by
  rw [padCodeword]
  split_ifs <;> decide

theorem padBytes_eq (n : Nat) :
    padBytes n = (List.range n).flatMap (fun k => bin 8 (padCodeword k)) := rfl

theorem padCodeword_bits_length (k : Nat) : (bin 8 (padCodeword k)).length = 8 :=
  bin_length_of_lt (by decide) (padCodeword_lt k)

@[simp] theorem padBytes_length (n : Nat) : (padBytes n).length = 8 * n := by
  simp [padBytes_eq, List.length_flatMap, padCodeword_bits_length, Nat.mul_comm, -bin_length]

theorem padBytes_getD {n i : Nat} (hi : i < 8 * n) :
    (padBytes n).getD i false = (padCodeword (i / 8)).testBit (7 - i % 8) := by
  have hk : i / 8 < n := by omega
  have h := flatMap_getD_of_length_eight padCodeword_bits_length (List.range n) 0
    (k := i / 8) (i := i % 8) (by simpa using hk) (by omega)
  rw [Nat.div_add_mod, bin_getD_of_lt (padCodeword_lt _) (by omega)] at h
  rw [padBytes_eq, h, List.getD_eq_getElem _ _ (by simpa using hk), List.getElem_range]

theorem fillTo_length {h : Bits} {c : Nat} (hfit : h.length ≤ c) (hc : c % 8 = 0) :
    (fillTo h c).length = c := by
  obtain ⟨hstart, hend⟩ := padStart_range hfit hc
  have hbyte : padStart h c % 8 = 0 := Nat.mul_mod_left _ _
  simp only [fillTo_eq, List.length_append, zeros_length, padBytes_length]
  omega

theorem paddedBit_eq (h : Bits) (c i : Nat) :
    paddedBit h c i =
      if i < h.length then h.getD i false
      else if i < padStart h c then false
      else (padCodeword (i / 8 - padStart h c / 8)).testBit (7 - i % 8) := by
  rw [padCodeword, apply_ite Nat.testBit, ite_apply]
  rfl

/-- Each bit of a filled stream is the header's, a zero, or a pad codeword's. -/
theorem fillTo_getD {h : Bits} {c i : Nat} (hfit : h.length ≤ c) (hc : c % 8 = 0) (hi : i < c) :
    (fillTo h c).getD i false = paddedBit h c i := by
  obtain ⟨hstart, hend⟩ := padStart_range hfit hc
  have hbyte : padStart h c % 8 = 0 := Nat.mul_mod_left _ _
  have hzeros : (h ++ zeros (padStart h c - h.length)).length = padStart h c := by
    rw [List.length_append, zeros_length]
    omega
  rw [fillTo_eq, paddedBit_eq]
  split_ifs with hheader hpad
  · rw [List.getD_append _ _ _ _ (by omega), List.getD_append _ _ _ _ hheader]
  · rw [List.getD_append _ _ _ _ (by omega), List.getD_append_right _ _ _ _ (by omega),
      zeros_getD]
  · rw [List.getD_append_right _ _ _ _ (by omega), hzeros, padBytes_getD (by omega),
      show (i - padStart h c) / 8 = i / 8 - padStart h c / 8 by omega,
      show (i - padStart h c) % 8 = i % 8 by omega]

/-! ## The header fits the capacity -/

theorem streamHeader_eq (t : List Byte) {v : Nat} (h1 : 1 ≤ v) (h40 : v ≤ 40) :
    streamHeader t v =
      bin 4 (modeRule t) ++ bin (widthRule v (modeRule t)) t.length ++ dataRule t := by
  rw [streamHeader, countField, countWidth_eq_some h1 h40 (selectMode_ne_kanji t),
    dataBits_eq_dataRule, modeRule_eq]
  rfl

/-- The printed capacities leave room for the header of any text strictly below them, and no stream
outgrows BITBUF. -/
theorem capacities_fit : ∀ v ∈ Config.capVersions, ∀ l ∈ [Level.L, .M, .Q, .H],
    capBits v l ≤ 2048 ∧ ∀ m ∈ [Mode.numeric, .alphanumeric, .byte], capacityOf v l m ≤ 187 ∧
      4 + widthRule v (modeCode m).toNat + dataBound m (capacityOf v l m - 1) ≤ capBits v l := by
  decide

theorem mem_levels (l : Level) : l ∈ [Level.L, .M, .Q, .H] := by
  cases l <;> decide

theorem mem_textModes {m : Mode} (h : m ≠ .kanji) : m ∈ [Mode.numeric, .alphanumeric, .byte] := by
  cases m with
  | kanji => exact absurd rfl h
  | _ => decide

theorem dataBound_mono (m : Mode) {n k : Nat} (h : n ≤ k) : dataBound m n ≤ dataBound m k := by
  cases m <;> simp only [dataBound] <;> omega

theorem capBits_le {t : List Byte} {l : Level} {v : Nat} (h : smallestVersion t l = some v) :
    capBits v l ≤ 2048 :=
  (capacities_fit v (List.mem_of_find?_eq_some h) l (mem_levels l)).1

theorem streamHeader_length_le {t : List Byte} {l : Level} {v : Nat}
    (h : smallestVersion t l = some v) : (streamHeader t v).length ≤ capBits v l := by
  obtain ⟨⟨h1, h4⟩, hcapacity, -⟩ := (smallestVersion_eq_some_iff t l v).mp h
  obtain ⟨-, hmodes⟩ := capacities_fit v (List.mem_of_find?_eq_some h) l (mem_levels l)
  obtain ⟨hsmall, hfit⟩ := hmodes _ (mem_textModes (selectMode_ne_kanji t))
  obtain ⟨hwidth, -⟩ := widthRule_range v (modeRule t)
  have hmode : (bin 4 (modeRule t)).length = 4 :=
    bin_length_of_lt (by decide) (by rw [modeRule_eq]; exact BitVec.isLt _)
  have hcount : (bin (widthRule v (modeRule t)) t.length).length = widthRule v (modeRule t) := by
    have hpow : 2 ^ 8 ≤ 2 ^ widthRule v (modeRule t) := Nat.pow_le_pow_right (by decide) hwidth
    exact bin_length_of_lt (by omega) (by omega)
  have hdata : (dataRule t).length ≤
      dataBound (selectMode t) (capacityOf v l (selectMode t) - 1) := by
    rw [← dataBits_eq_dataRule]
    exact (dataBits_length_le t).trans (dataBound_mono _ (by omega))
  rw [← modeRule_eq] at hfit
  rw [streamHeader_eq t h1 (by omega), List.length_append, List.length_append, hmode, hcount]
  omega

theorem capBits_mod (v : Nat) (l : Level) : capBits v l % 8 = 0 := Nat.mul_mod_right _ _

/-- A padded stream fills the capacity of its version exactly (41_bitstream.md R153). -/
theorem padded_length {t : List Byte} {l : Level} {v : Nat} (h : smallestVersion t l = some v) :
    (padded t v l).length = capBits v l := by
  rw [padded_eq_fillTo, fillTo_length (streamHeader_length_le h) (capBits_mod v l)]

theorem padded_getD {t : List Byte} {l : Level} {v : Nat} (h : smallestVersion t l = some v)
    {i : Nat} (hi : i < capBits v l) :
    (padded t v l).getD i false = paddedBit (streamHeader t v) (capBits v l) i := by
  rw [padded_eq_fillTo, fillTo_getD (streamHeader_length_le h) (capBits_mod v l) hi]

/-- Settles O46: the header fits the capacity, and the filled stream is read back bit by bit. -/
theorem buildPaddedFillsTheCapacity : Obligations.BuildPaddedFillsTheCapacity := by
  refine ⟨rfl, fun s => ⟨fun h => fails_of_exec .invalidArgument ?_,
    fun h hnone => fails_of_exec .outOfRange ?_, fun v h hv => ?_⟩⟩
  · rw [exec, execBuildPadded, textOperand_error h]
  · rw [exec, execBuildPadded, textOperand_ok h]
    simp only [hnone]
  · obtain ⟨h1, h4⟩ := smallestVersion_range hv
    have hlen := padded_length hv
    have hbytesLen : (capBits v (levelOf s.level) + 7) / 8 = dataCW v (levelOf s.level) := by
      rw [capBits]
      omega
    have hheader := streamHeader_eq (textOf s) h1 (by omega)
    rw [State.readBytes_length] at hheader
    obtain ⟨t, ht, hsucc, hmode, hversion, hbitLen, hbits, hregs, hbytes⟩ := complete_writeBitbuf
      (s := s) (u := { s with
        mode := modeCode (selectMode (textOf s)), version := BitVec.ofNat 6 v }) rfl
      ⟨rfl, rfl, rfl, rfl, rfl⟩ (regsKept_mode_version s _ _) (fun _ => rfl)
      (hlen.trans_le (capBits_le hv))
    rw [hlen] at hbitLen hbits hbytes
    rw [hbytesLen] at hbits hbytes
    refine ⟨t, ?_, hsucc, ?_, ?_, hbitLen, ?_, hregs, hbytes⟩
    · rw [exec, execBuildPadded, textOperand_ok h, ← ht]
      simp only [hv]
    · rw [hmode, modeRule_eq]
    · rw [hversion, versionField_toNat h4]
    · rw [← hheader, hbitLen]
      refine ⟨streamHeader_length_le hv, fun i hi => ?_⟩
      rw [← padded_getD hv hi]
      exact hbits i (by rwa [Nat.mul_comm])

end Sys2Proof.Machine
end

section
/-! SUPPORT. Proofs about the generator polynomial (42_reed_solomon.md R181): the laws of the product of
GF(256), the generator's value as a product over its roots, and why no coefficient is 0. -/

namespace Sys2Proof.Machine

/-! ## The laws of the product (40_gf256.md R109) -/

/-- The product of powers of α, whatever the size of the exponents. -/
theorem gmul_toNat_of_powers {a b : Byte} {x y : Nat} (ha : alphaPow x = a.toNat)
    (hb : alphaPow y = b.toNat) : (gmul a b).toNat = alphaPow (x + y) := by
  rw [gmul_toNat_eq_polyTimes, ← ha, ← hb, polyTimes_alphaPow]

/-- Every nonzero element is a power of α. -/
theorem exists_alphaPow {a : Byte} (ha : a ≠ 0) : ∃ x, alphaPow x = a.toNat := by
  obtain ⟨l, -, -, rfl⟩ := logRom_spec ha
  exact ⟨l.toNat, (expRom_toNat l).symm⟩

theorem gmul_zero_left (b : Byte) : gmul 0 b = 0 := gmul_eq_zero (.inl rfl)

theorem gmul_zero_right (a : Byte) : gmul a 0 = 0 := gmul_eq_zero (.inr rfl)

theorem mula_comm (x y : Byte) : mula x y = mula y x := by
  simp only [mula, Nat.add_comm]

theorem gmul_comm (a b : Byte) : gmul a b = gmul b a := by
  unfold gmul
  cases logRom a <;> cases logRom b <;> simp only [mula_comm]

/-- Products of nonzero elements add exponents, so they may be grouped either way. -/
theorem gmul_assoc (a b c : Byte) : gmul (gmul a b) c = gmul a (gmul b c) := by
  rcases eq_or_ne a 0 with rfl | ha
  · simp only [gmul_zero_left]
  rcases eq_or_ne b 0 with rfl | hb
  · simp only [gmul_zero_left, gmul_zero_right]
  rcases eq_or_ne c 0 with rfl | hc
  · simp only [gmul_zero_right]
  obtain ⟨x, hx⟩ := exists_alphaPow ha
  obtain ⟨y, hy⟩ := exists_alphaPow hb
  obtain ⟨z, hz⟩ := exists_alphaPow hc
  apply BitVec.eq_of_toNat_eq
  rw [gmul_toNat_of_powers (gmul_toNat_of_powers hx hy).symm hz,
    gmul_toNat_of_powers hx (gmul_toNat_of_powers hy hz).symm, Nat.add_assoc]

/-- Polynomial multiplication distributes over addition of the first factor. -/
theorem polyTimes_xor_left {a c : Nat} (ha : a < 256) (hc : c < 256) (n b : Nat) :
    polyTimes (a ^^^ c) n b = polyTimes a n b ^^^ polyTimes c n b := by
  induction n generalizing b with
  | zero => exact (Nat.xor_self 0).symm
  | succ n ih =>
    have hterm : (if b % 2 = 1 then a ^^^ c else 0) =
        (if b % 2 = 1 then a else 0) ^^^ (if b % 2 = 1 then c else 0) := by
      split_ifs <;> simp
    rw [polyTimes, polyTimes, polyTimes, ih, timesX_xor (polyTimes_lt ha n _) (polyTimes_lt hc n _),
      hterm]
    ac_rfl

theorem gmul_xor_left (a b c : Byte) : gmul (a ^^^ b) c = gmul a c ^^^ gmul b c := by
  apply BitVec.eq_of_toNat_eq
  simp only [BitVec.toNat_xor, gmul_toNat_eq_polyTimes, polyTimes_xor_left a.isLt b.isLt]

theorem gmul_xor_right (a b c : Byte) : gmul a (b ^^^ c) = gmul a b ^^^ gmul a c := by
  rw [gmul_comm, gmul_xor_left, gmul_comm b, gmul_comm c]

theorem gmul_left_comm (a b c : Byte) : gmul a (gmul b c) = gmul b (gmul a c) := by
  rw [← gmul_assoc, gmul_comm a b, gmul_assoc]

theorem gmul_one_left (a : Byte) : gmul 1 a = a := by
  apply BitVec.eq_of_toNat_eq
  rw [gmul_toNat_eq_polyTimes]
  exact polyTimes_one_left le_rfl a.isLt

theorem gmul_one_right (a : Byte) : gmul a 1 = a := by
  rw [gmul_comm, gmul_one_left]

theorem gmul_ne_zero {a b : Byte} (ha : a ≠ 0) (hb : b ≠ 0) : gmul a b ≠ 0 := by
  obtain ⟨x, hx⟩ := exists_alphaPow ha
  obtain ⟨y, hy⟩ := exists_alphaPow hb
  intro h
  have hzero : alphaPow ((x + y) % 255) = (0 : Byte).toNat := by
    rw [alphaPow_mod_255, ← gmul_toNat_of_powers hx hy, h]
  have hlog := logRom_of_alphaPow (by omega) hzero
  rw [logRom_zero] at hlog
  cases hlog

/-! ## Powers of α as bytes -/

theorem alphaPower_eq {i : Nat} (hi : i < 256) : alphaPower i = BitVec.ofNat 8 (alphaPow i) := by
  apply BitVec.eq_of_toNat_eq
  rw [alphaPower, expRom_ofNat hi, BitVec.toNat_ofNat, Nat.mod_eq_of_lt (alphaPow_lt i)]

theorem alphaPower_succ {n : Nat} (hn : n < 255) :
    alphaPower (n + 1) = gmul (alphaPower 1) (alphaPower n) := by
  apply BitVec.eq_of_toNat_eq
  have hn' : alphaPow n = (alphaPower n).toNat := (expRom_ofNat (by omega)).symm
  rw [gmul_toNat_of_powers (x := 1) rfl hn', Nat.add_comm, alphaPower, expRom_ofNat (by omega)]

/-- The powers of α below its order are distinct. -/
theorem alphaPower_inj {m n : Nat} (hm : m < 255) (hn : n < 255)
    (h : alphaPower m = alphaPower n) : m = n := by
  have hpow : alphaPow m = (alphaPower n).toNat := by
    rw [← h, alphaPower, expRom_ofNat (by omega)]
  have hlog := logRom_of_alphaPow hm hpow
  rw [alphaPower, logRom_expRom _ (by rw [BitVec.toNat_ofNat]; omega)] at hlog
  have hnat := congrArg BitVec.toNat (Option.some.inj hlog)
  rw [BitVec.toNat_ofNat, BitVec.toNat_ofNat] at hnat
  omega

/-! ## Values of polynomials -/

theorem polyEval_concat (p : List Byte) (c x : Byte) :
    polyEval (p ++ [c]) x = gmul (polyEval p x) x ^^^ c := by
  rw [polyEval, List.foldl_concat, polyEval]

theorem polyEval_zero_cons (p : List Byte) (x : Byte) : polyEval (0 :: p) x = polyEval p x := by
  rw [polyEval, List.foldl_cons, gmul_zero_left, polyEval]
  rfl

/-- A trailing coefficient 0 multiplies the value by the element. -/
theorem polyEval_concat_zero (p : List Byte) (x : Byte) :
    polyEval (p ++ [0]) x = gmul (polyEval p x) x := by
  rw [polyEval_concat]
  exact BitVec.xor_zero

/-- A constant factor comes out of the value. -/
theorem polyEval_map_gmul (a : Byte) (p : List Byte) (x : Byte) :
    polyEval (p.map (gmul a)) x = gmul a (polyEval p x) := by
  induction p using List.reverseRecOn with
  | nil => exact (gmul_zero_right a).symm
  | append_singleton p c ih =>
    rw [List.map_append, List.map_singleton, polyEval_concat, ih, polyEval_concat, gmul_xor_right,
      gmul_assoc]

theorem xorTerms_concat {p q : List Byte} (h : p.length = q.length) (c d : Byte) :
    xorTerms (p ++ [c]) (q ++ [d]) = xorTerms p q ++ [c ^^^ d] := by
  induction p generalizing q with
  | nil =>
    obtain rfl := List.length_eq_zero_iff.mp h.symm
    rfl
  | cons a p ih =>
    cases q with
    | nil => simp at h
    | cons b q => rw [List.cons_append, List.cons_append, xorTerms, ih (Nat.succ.inj h)]; rfl

/-- The value of a sum of polynomials of one length is the sum of their values. -/
theorem polyEval_xorTerms {p q : List Byte} (h : p.length = q.length) (x : Byte) :
    polyEval (xorTerms p q) x = polyEval p x ^^^ polyEval q x := by
  induction p using List.reverseRecOn generalizing q with
  | nil =>
    obtain rfl := List.length_eq_zero_iff.mp h.symm
    exact (BitVec.xor_self (x := 0#8)).symm
  | append_singleton p c ih =>
    cases q using List.reverseRecOn with
    | nil => simp at h
    | append_singleton q d =>
      have hlen : p.length = q.length := by simpa using h
      rw [xorTerms_concat hlen, polyEval_concat, polyEval_concat, polyEval_concat, ih hlen,
        gmul_xor_left]
      ac_rfl

/-! ## The generator polynomial (42_reed_solomon.md R181) -/

theorem genCoeffs_head? (e : Nat) : (genCoeffs e).head? = some 1 := by
  induction e with
  | zero => rfl
  | succ e ih =>
    obtain ⟨g, hg⟩ := List.head?_eq_some_iff.mp ih
    rw [genCoeffs, hg]
    rfl

/-- Each step of the generator multiplies its value by the factor of one more root. -/
theorem polyEval_genCoeffs_succ (e : Nat) (x : Byte) :
    polyEval (genCoeffs (e + 1)) x = gmul (polyEval (genCoeffs e) x) (x ^^^ alphaPower e) := by
  have hlen : (genCoeffs e ++ [0]).length = (0 :: (genCoeffs e).map (gmul (alphaPower e))).length := by
    simp
  rw [genCoeffs, polyEval_xorTerms hlen, polyEval_concat_zero, polyEval_zero_cons, polyEval_map_gmul,
    gmul_xor_right, gmul_comm (alphaPower e)]

theorem polyEval_genCoeffs {e : Nat} (he : e ≤ 256) (x : Byte) :
    polyEval (genCoeffs e) x =
      (List.range e).foldl (fun acc i => gmul acc (x ^^^ BitVec.ofNat 8 (alphaPow i))) 1 := by
  induction e with
  | zero =>
    rw [genCoeffs, polyEval, List.foldl_cons, gmul_zero_left]
    rfl
  | succ e ih =>
    rw [polyEval_genCoeffs_succ, ih (by omega), alphaPower_eq (by omega), List.range_succ,
      List.foldl_concat]

/-! ## The coefficients of the generator

The coefficient of x^(e-k) is α^(k(k-1)/2) times a Gaussian binomial in α, and those are not 0 below the
order 255 of α. The proof goes by the ratio of neighbouring coefficients, said without division. -/

theorem xorTerms_getD (p q : List Byte) (k : Nat) :
    (xorTerms p q).getD k 0 = p.getD k 0 ^^^ q.getD k 0 := by
  induction p generalizing q k with
  | nil => simp [xorTerms]
  | cons a p ih =>
    cases q with
    | nil => simp [xorTerms]
    | cons b q =>
      cases k with
      | zero => simp [xorTerms]
      | succ k => simpa [xorTerms] using ih q k

theorem getD_concat_zero (p : List Byte) (k : Nat) : (p ++ [0]).getD k 0 = p.getD k 0 := by
  grind

theorem genCoeffs_getD_zero (e : Nat) : (genCoeffs e).getD 0 0 = 1 := by
  rw [List.getD_eq_getElem?_getD, ← List.head?_eq_getElem?, genCoeffs_head?, Option.getD_some]

/-- The recurrence of the coefficients. -/
theorem genCoeffs_getD_succ (e k : Nat) :
    (genCoeffs (e + 1)).getD (k + 1) 0 =
      (genCoeffs e).getD (k + 1) 0 ^^^ gmul (alphaPower e) ((genCoeffs e).getD k 0) := by
  have hmap := List.getD_map (l := genCoeffs e) (n := k) (d := 0) (gmul (alphaPower e))
  rw [gmul_zero_right] at hmap
  rw [genCoeffs, xorTerms_getD, getD_concat_zero, List.getD_cons_succ, ← hmap]

theorem xor_cancel_middle (a b c : Byte) : a ^^^ b ^^^ (b ^^^ c) = a ^^^ c := by
  rw [BitVec.xor_assoc, ← BitVec.xor_assoc b, BitVec.xor_self, BitVec.zero_xor]

/-- `genCoeffs_ratio` for the first two coefficients, from degree e to e + 1, as a field identity: t is
α, q is α^e and x the second coefficient. -/
theorem coeffRatio_first {t q x : Byte} (h : gmul (1 ^^^ t) x = 1 ^^^ q) :
    gmul (1 ^^^ t) (x ^^^ q) = 1 ^^^ gmul t q := by
  rw [gmul_xor_right, h, gmul_xor_left, gmul_one_left, xor_cancel_middle]

/-- `genCoeffs_ratio` further on, from degree e to e + 1, as a field identity: t is α, p is α^j, q is α^e
and z, y, x are the coefficients j, j + 1 and j + 2. -/
theorem coeffRatio_next {t p q x y z : Byte}
    (h1 : gmul (1 ^^^ gmul t (gmul t p)) x = gmul (gmul t p ^^^ q) y)
    (h0 : gmul (1 ^^^ gmul t p) y = gmul (p ^^^ q) z) :
    gmul (1 ^^^ gmul t (gmul t p)) (x ^^^ gmul q y) =
      gmul (gmul t p ^^^ gmul t q) (y ^^^ gmul q z) := by
  have hz : gmul (gmul t p ^^^ gmul t q) (gmul q z) = gmul (gmul t q) (gmul (1 ^^^ gmul t p) y) := by
    rw [h0, ← gmul_xor_right, gmul_assoc, gmul_left_comm _ q, gmul_assoc]
  rw [gmul_xor_right, h1, gmul_xor_right, hz]
  simp only [gmul_xor_left, gmul_xor_right, gmul_one_left, gmul_assoc, gmul_left_comm q]
  rw [xor_cancel_middle, xor_cancel_middle]

/-- The ratio of neighbouring coefficients: coefficient k + 1 times 1 - α^(k+1) is coefficient k times
α^k - α^e. -/
theorem genCoeffs_ratio {e k : Nat} (he : e ≤ 255) (hk : k < 255) :
    gmul (1 ^^^ alphaPower (k + 1)) ((genCoeffs e).getD (k + 1) 0) =
      gmul (alphaPower k ^^^ alphaPower e) ((genCoeffs e).getD k 0) := by
  induction e generalizing k with
  | zero =>
    cases k with
    | zero => rfl
    | succ k => exact (gmul_zero_right _).trans (gmul_zero_right _).symm
  | succ e ih =>
    rw [genCoeffs_getD_succ, alphaPower_succ hk, alphaPower_succ (n := e) (by omega)]
    cases k with
    | zero =>
      have hratio := ih (k := 0) (by omega) hk
      simp only [genCoeffs_getD_zero, gmul_one_right] at hratio ⊢
      exact coeffRatio_first hratio
    | succ j =>
      have hj : j < 255 := by omega
      have hratio := ih (k := j + 1) (by omega) hk
      have hbefore := ih (k := j) (by omega) hj
      rw [alphaPower_succ hk, alphaPower_succ hj] at hratio
      rw [alphaPower_succ hj] at hbefore
      rw [genCoeffs_getD_succ, alphaPower_succ hj]
      exact coeffRatio_next hratio hbefore

/-- No coefficient of a generator is 0: the leading one is 1, and the ratios are not 0. -/
theorem genCoeffs_getD_ne_zero {e k : Nat} (he : e < 255) (hk : k ≤ e) :
    (genCoeffs e).getD k 0 ≠ 0 := by
  induction k with
  | zero => rw [genCoeffs_getD_zero]; decide
  | succ k ih =>
    intro hzero
    have hratio := genCoeffs_ratio (e := e) (k := k) (by omega) (by omega)
    rw [hzero, gmul_zero_right] at hratio
    refine gmul_ne_zero (fun h => ?_) (ih (by omega)) hratio.symm
    have hke := alphaPower_inj (by omega) he (BitVec.xor_eq_zero_iff.mp h)
    omega

theorem genCoeffs_ne_zero {e : Nat} (he : e < 255) : ∀ c ∈ genCoeffs e, c ≠ 0 := by
  intro c hc
  obtain ⟨k, hk, rfl⟩ := List.getElem_of_mem hc
  rw [← List.getD_eq_getElem _ 0 hk]
  rw [genCoeffs_length] at hk
  exact genCoeffs_getD_ne_zero he (by omega)

/-- Settles O48: the value by induction on the degree, one root a step. -/
theorem generatorIsTheProductOfItsRoots : Obligations.GeneratorIsTheProductOfItsRoots :=
  fun e _ he => ⟨genCoeffs_length e, genCoeffs_head? e, genCoeffs_ne_zero (by omega),
    polyEval_genCoeffs (by omega)⟩

end Sys2Proof.Machine
end

section
/-! SUPPORT. Proofs about GEN_POLY, RS_ENCODE and ASSEMBLE (42_reed_solomon.md): each stores one run of
bytes in its buffer and the length of the run in its register. -/

namespace Sys2Proof.Machine

/-! ## Commands that store one run of bytes -/

theorem State.readBytes_congr {s t : State} (h : AllBytesKept s t) (a n : Nat) :
    t.readBytes a n = s.readBytes a n :=
  List.map_congr_left fun k _ => h (a + k)

theorem State.readBytes_getD (s : State) {a n k : Nat} (hk : k < n) :
    (s.readBytes a n).getD k 0 = s.readByte (a + k) := by
  rw [List.getD_eq_getElem?_getD, State.readBytes_getElem?, if_pos hk, Option.getD_some]

theorem Holds.readByte {t : State} {a : Nat} {bs : List Byte} (h : Holds t a bs) {k : Nat}
    (hk : k < bs.length) : t.readByte (a + k) = bs.getD k 0 := by
  rw [← t.readBytes_getD hk, h]

/-- What a command leaves that stores a run of bytes below MATRIX and sets the registers ws. -/
theorem State.finish_of_store {s u : State} {ws : List Reg} {a : Nat} {bs : List Byte}
    (hmem : u.mem = s.mem.store a bs) (hhaz : u.haz = s.haz) (henv : EnvKept s u)
    (hregs : RegsKept s u ws) (hfit : a + bs.length ≤ 0x800) :
    Succeeds s (u.finish none) ∧ Holds (u.finish none) a bs ∧ RegsKept s (u.finish none) ws ∧
      BytesKept s (u.finish none) a bs.length := by
  have ⟨_, _, _, hepoch, _⟩ := henv
  have hbytes : ∀ k, (u.finish none).readByte k = (s.storeBytes a bs).readByte k :=
    State.readByte_congr hmem hepoch
  refine ⟨State.finish_succeeds hhaz henv, ?_, State.finish_regsKept hregs, fun k hk => ?_⟩
  · rw [Holds, State.readBytes_congr hbytes, s.readBytes_storeBytes a bs (.inl hfit)]
  · rw [hbytes, State.readByte_storeBytes_of_not_mem _ hk]

/-! ## GEN_POLY (42_reed_solomon.md R183) -/

/-- The state with the generator of degree e in GENBUF and its length in GEN_LEN. -/
def State.writeGenbuf (s : State) (e : Nat) : State :=
  { s.storeBytes genbufWindow.base (genbufImage e) with genLen := BitVec.ofNat 6 (e + 1) }

theorem State.writeGenbuf_regsKept (s : State) (e : Nat) :
    RegsKept s (s.writeGenbuf e) [.genLen] := by
  intro r _ hr
  cases r with
  | genLen => simp at hr
  | _ => rfl

theorem exec_genPoly_ok {s : State} (h1 : 1 ≤ s.genDeg.toNat) (h32 : s.genDeg.toNat ≤ 32) :
    exec .genPoly s = complete s (.ok (s.writeGenbuf s.genDeg.toNat)) := by
  have hlegal : ¬(s.genDeg.toNat = 0 ∨ Config.genMaxDeg < s.genDeg.toNat) := by
    unfold Config.genMaxDeg
    omega
  rw [exec, execGenPoly]
  simp only [if_neg hlegal]
  rfl

theorem exec_genPoly_error {s : State} (h : s.genDeg.toNat = 0 ∨ 32 < s.genDeg.toNat) :
    exec .genPoly s = complete s (.error .invalidArgument) := by
  rw [exec, execGenPoly]
  exact congrArg (complete s) (if_pos h)

theorem genbufImage_length {e : Nat} (he : e ≤ 32) : (genbufImage e).length = 64 := by
  have hsize : Config.genbufBytes = 64 := rfl
  simp only [genbufImage, hsize, List.length_append, genAlpha_length, List.length_replicate]
  omega

/-- Up to the degree GENBUF holds the logarithms of the coefficients. -/
theorem genbufImage_getD_le {e k : Nat} (he : e ≤ 32) (hk : k ≤ e) :
    ((genbufImage e).getD k 0).toNat < 255 ∧
      alphaPow ((genbufImage e).getD k 0).toNat = ((genCoeffs e).getD k 0).toNat := by
  obtain ⟨l, hlog, hl, hexp⟩ :=
    logRom_spec (genCoeffs_getD_ne_zero (e := e) (k := k) (by omega) hk)
  have hbyte : (genbufImage e).getD k 0 = l := by
    have hmap := List.getD_map (l := genCoeffs e) (n := k) (d := 0) alphaOf
    have hcoeff : alphaOf ((genCoeffs e).getD k 0) = l := by rw [alphaOf, hlog, Option.getD_some]
    rw [genbufImage, List.getD_append _ _ _ _ (by rw [genAlpha_length]; omega)]
    exact hmap.trans hcoeff
  rw [hbyte, ← hexp, expRom_toNat]
  exact ⟨hl, rfl⟩

theorem genbufImage_getD_gt {e k : Nat} (hk : e < k) : (genbufImage e).getD k 0 = 0 := by
  rw [genbufImage, List.getD_append_right _ _ _ _ (by rw [genAlpha_length]; omega)]
  simp

/-- Settles O49: GENBUF holds the generator's image, none of whose coefficients lacks a logarithm. -/
theorem genPolyWritesTheGenerator : Obligations.GenPolyWritesTheGenerator := by
  refine ⟨rfl, fun s => ⟨fun h => fails_of_exec .invalidArgument (exec_genPoly_error h),
    fun h1 h32 => ?_⟩⟩
  have hlen := genbufImage_length h32
  obtain ⟨hsucc, hholds, hregs, hbytes⟩ := State.finish_of_store (s := s)
    (u := s.writeGenbuf s.genDeg.toNat) (a := 0x340) rfl rfl ⟨rfl, rfl, rfl, rfl, rfl⟩
    (s.writeGenbuf_regsKept _) (by omega)
  refine ⟨_, exec_genPoly_ok h1 h32, hsucc, toNat_ofNat_of_lt (by omega), fun k hk => ?_,
    fun k hk hk64 => ?_, hregs, hlen ▸ hbytes⟩
  · rw [hholds.readByte (by omega)]
    exact genbufImage_getD_le h32 hk
  · rw [hholds.readByte (by omega), genbufImage_getD_gt hk]

/-! ## RS_ENCODE (42_reed_solomon.md R186) -/

theorem divide_length (d : List Byte) (e : Nat) : (divide d e).length = e := by
  simp [divide]

/-- A single-block configuration has at most 32 EC codewords, so they fit ECBUF. -/
theorem capRow_ec_le {v : Nat} {l : Level} {r : CapRow} (h : capRow v l = some r)
    (hr : r.blocks = 1) : r.ec ≤ 32 := by
  have hrom : ∀ v ∈ Config.capVersions, ∀ l ∈ [Level.L, .M, .Q, .H],
      ∀ r ∈ capRow v l, r.blocks = 1 → r.ec ≤ 32 := by decide
  obtain ⟨h1, h4⟩ := (capRow_isSome v l).mp (by rw [h]; rfl)
  refine hrom v ?_ l (mem_levels l) r h hr
  rw [capVersions_eq_range', List.mem_range'_1]
  omega

theorem State.writeEcbuf_regsKept (s : State) (c : List Byte) :
    RegsKept s (s.writeEcbuf c) [.ecLen] := by
  intro r _ hr
  cases r with
  | ecLen => simp at hr
  | _ => rfl

/-- Settles O50: the checks are the branches of the rule in their order, and the EC codewords of a
single block fit ECBUF. -/
theorem rsEncodeWritesTheRemainder : Obligations.RsEncodeWritesTheRemainder := by
  refine ⟨rfl, fun s => ⟨fun h => fails_of_exec .invalidArgument ?_, fun h h8 =>
    ⟨fun hv => fails_of_exec .notFound ?_, fun r hrow =>
      ⟨fun hb => fails_of_exec .notImplemented ?_, fun hb => ?_⟩⟩⟩⟩
  · rw [exec, execRsEncode, codewordOperand_error h]
  · rw [exec, execRsEncode, codewordOperand_ok h h8]
    simp only [capRow_eq_none hv]
  · rw [exec, execRsEncode, codewordOperand_ok h h8]
    simp only [hrow, if_pos hb]
  · have hexec : exec .rsEncode s = complete s (.ok (s.writeEcbuf (divide (dataOf s) r.ec))) := by
      rw [exec, execRsEncode, codewordOperand_ok h h8]
      simp only [hrow, if_neg (not_not_intro hb)]
      rfl
    have hlen := divide_length (dataOf s) r.ec
    have hec := capRow_ec_le hrow hb
    obtain ⟨hsucc, hholds, hregs, hbytes⟩ := State.finish_of_store (s := s)
      (u := s.writeEcbuf (divide (dataOf s) r.ec)) (a := 0x300) rfl rfl ⟨rfl, rfl, rfl, rfl, rfl⟩
      (s.writeEcbuf_regsKept _) (by omega)
    rw [Holds, hlen] at hholds
    rw [hlen] at hbytes
    refine ⟨_, hexec, hsucc, ?_, hholds, hregs, hbytes⟩
    exact (toNat_ofNat_of_lt (by omega)).trans hlen

/-! ## ASSEMBLE (42_reed_solomon.md R190) -/

theorem ecOperand_ok {s : State} (h : s.ecLen.toNat ≤ 32) :
    ecOperand s = .ok (s.readBytes ecbufWindow.base s.ecLen.toNat) := by
  unfold ecOperand
  exact if_neg (by unfold Config.ecbufBytes; omega)

theorem ecOperand_error {s : State} (h : 32 < s.ecLen.toNat) :
    ecOperand s = .error .invalidArgument := by
  unfold ecOperand
  exact if_pos h

/-- The EC codewords ECBUF holds for ASSEMBLE (10_state.md R45). -/
abbrev ecOf (s : State) : List Byte := s.readBytes 0x300 s.ecLen.toNat

theorem State.writeFinal_regsKept (s : State) (f : List Byte) :
    RegsKept s (s.writeFinal f) [.finalLen] := by
  intro r _ hr
  cases r with
  | finalLen => simp at hr
  | _ => rfl

theorem exec_assemble_ok {s : State} (h : s.bitLen.toNat ≤ 2048) (h8 : s.bitLen.toNat % 8 = 0)
    (hec : s.ecLen.toNat ≤ 32) :
    exec .assemble s = complete s (.ok (s.writeFinal (dataOf s ++ ecOf s))) := by
  rw [exec, execAssemble, codewordOperand_ok h h8, ecOperand_ok hec]
  rfl

/-- An illegal EC_LEN fails like an illegal BIT_LEN, so the order of the two checks does not show. -/
theorem exec_assemble_error {s : State}
    (h : 2048 < s.bitLen.toNat ∨ s.bitLen.toNat % 8 ≠ 0 ∨ 32 < s.ecLen.toNat) :
    exec .assemble s = complete s (.error .invalidArgument) := by
  rw [exec, execAssemble]
  by_cases hbits : 2048 < s.bitLen.toNat ∨ s.bitLen.toNat % 8 ≠ 0
  · rw [codewordOperand_error hbits]
  · rw [codewordOperand_ok (by omega) (by omega), ecOperand_error (by omega)]

/-- Settles O53: FINAL holds the two operands one after the other. -/
theorem assembleConcatenates : Obligations.AssembleConcatenates := by
  refine ⟨rfl, fun s => ⟨fun h => fails_of_exec .invalidArgument (exec_assemble_error h),
    fun h h8 hec => ?_⟩⟩
  have hlen : (dataOf s ++ ecOf s).length = s.bitLen.toNat / 8 + s.ecLen.toNat := by
    rw [List.length_append, State.readBytes_length, State.readBytes_length]
  obtain ⟨hsucc, hholds, hregs, hbytes⟩ := State.finish_of_store (s := s)
    (u := s.writeFinal (dataOf s ++ ecOf s)) (a := 0x400) rfl rfl ⟨rfl, rfl, rfl, rfl, rfl⟩
    (s.writeFinal_regsKept _) (by omega)
  refine ⟨_, exec_assemble_ok h h8 hec, hsucc, fun k hk => ?_, fun k hk => ?_, ?_, hregs,
    hlen ▸ hbytes⟩
  · rw [hholds.readByte (by omega), List.getD_append _ _ _ _ (by rwa [State.readBytes_length]),
      s.readBytes_getD hk]
  · rw [Nat.add_assoc, hholds.readByte (by omega),
      List.getD_append_right _ _ _ _ (by rw [State.readBytes_length]; omega),
      State.readBytes_length, Nat.add_sub_cancel_left, s.readBytes_getD hk]
  · exact (toNat_ofNat_of_lt (by omega)).trans hlen

end Sys2Proof.Machine
end

section
/-! SUPPORT. Proofs about the reserved cells of a symbol (43_matrix.md R211 to R215): which they are, what
they show, and how many. -/

namespace Sys2Proof.Machine

/-! ## Finder, separator and timing cells (43_matrix.md R211 to R214) -/

theorem finder_eq_printed : ∀ dx < 7, ∀ dy < 7,
    finder dx dy = ((printedFinder.getD dy []).getD dx 0 == 1) := by
  decide

theorem finderAt_eq_none_iff {ox oy x y : Nat} :
    finderAt ox oy x y = none ↔ ¬(ox ≤ x ∧ x ≤ ox + 6 ∧ oy ≤ y ∧ y ≤ oy + 6) := by
  simp [finderAt, and_assoc]

theorem finderAt_of_block (ox oy : Nat) {dx dy : Nat} (hx : dx < 7) (hy : dy < 7) :
    finderAt ox oy (ox + dx) (oy + dy) = some ((printedFinder.getD dy []).getD dx 0 == 1) := by
  have hin : dx ≤ 6 ∧ dy ≤ 6 := by omega
  rw [← finder_eq_printed dx hx dy hy]
  simp [finderAt, hin]

theorem isSeparator_iff {side x y : Nat} : isSeparator side x y = true ↔
    (x = 7 ∧ y ≤ 7) ∨ (y = 7 ∧ x ≤ 7) ∨
    (x = side - 8 ∧ y ≤ 7) ∨ (y = 7 ∧ side - 8 ≤ x ∧ x < side) ∨
    (x = 7 ∧ side - 8 ≤ y ∧ y < side) ∨ (y = side - 8 ∧ x ≤ 7) := by
  simp [isSeparator, or_assoc, and_assoc]

theorem isTiming_iff {side x y : Nat} : isTiming side x y = true ↔
    (y = 6 ∧ 8 ≤ x ∧ x ≤ side - 9) ∨ (x = 6 ∧ 8 ≤ y ∧ y ≤ side - 9) := by
  simp [isTiming, and_assoc]

/-! ## The pattern value of a cell (43_matrix.md R215) -/

/-- The value of a cell that lies in no finder. -/
def stripAt (side x y : Nat) : Option Bool :=
  if isSeparator side x y then some false
  else if isTiming side x y then some ((if y = 6 then x else y) % 2 == 0)
  else none

theorem patternAt_eq_or (side x y : Nat) :
    patternAt side x y = (finderAt 0 0 x y).or ((finderAt (side - 7) 0 x y).or
      ((finderAt 0 (side - 7) x y).or (stripAt side x y))) := by
  unfold patternAt stripAt
  cases finderAt 0 0 x y <;> cases finderAt (side - 7) 0 x y <;>
    cases finderAt 0 (side - 7) x y <;> rfl

/-- Separators and timing strips meet no finder. -/
theorem patternAt_of_strip {side x y : Nat} (hside : 16 ≤ side)
    (h : isSeparator side x y = true ∨ isTiming side x y = true) :
    patternAt side x y = stripAt side x y := by
  rw [isSeparator_iff, isTiming_iff] at h
  have htl : finderAt 0 0 x y = none := finderAt_eq_none_iff.mpr (by omega)
  have htr : finderAt (side - 7) 0 x y = none := finderAt_eq_none_iff.mpr (by omega)
  have hbl : finderAt 0 (side - 7) x y = none := finderAt_eq_none_iff.mpr (by omega)
  rw [patternAt_eq_or, htl, htr, hbl]
  rfl

theorem patternAt_of_isSeparator {side x y : Nat} (hside : 16 ≤ side)
    (h : isSeparator side x y = true) : patternAt side x y = some false := by
  rw [patternAt_of_strip hside (.inl h), stripAt, if_pos h]

theorem patternAt_of_isTiming {side x y : Nat} (hside : 16 ≤ side)
    (h : isTiming side x y = true) :
    patternAt side x y = some ((if y = 6 then x else y) % 2 == 0) := by
  have hsep : ¬isSeparator side x y = true := by
    rw [isTiming_iff] at h
    rw [isSeparator_iff]
    omega
  rw [patternAt_of_strip hside (.inr h), stripAt, if_neg hsep, if_pos h]

/-- The three finders show the printed picture: their blocks do not overlap. -/
theorem patternAt_finders {side dx dy : Nat} (hside : 16 ≤ side) (hx : dx < 7) (hy : dy < 7) :
    let b := (printedFinder.getD dy []).getD dx 0 == 1
    patternAt side dx dy = some b ∧ patternAt side (side - 7 + dx) dy = some b ∧
      patternAt side dx (side - 7 + dy) = some b := by
  have htl := finderAt_of_block 0 0 hx hy
  have htr := finderAt_of_block (side - 7) 0 hx hy
  have hbl := finderAt_of_block 0 (side - 7) hx hy
  have htr₁ : finderAt 0 0 (side - 7 + dx) dy = none := finderAt_eq_none_iff.mpr (by omega)
  have hbl₁ : finderAt 0 0 dx (side - 7 + dy) = none := finderAt_eq_none_iff.mpr (by omega)
  have hbl₂ : finderAt (side - 7) 0 dx (side - 7 + dy) = none :=
    finderAt_eq_none_iff.mpr (by omega)
  simp only [Nat.zero_add] at htl htr hbl
  refine ⟨?_, ?_, ?_⟩
  · rw [patternAt_eq_or, htl, Option.some_or]
  · rw [patternAt_eq_or, htr₁, htr, Option.none_or, Option.some_or]
  · rw [patternAt_eq_or, hbl₁, hbl₂, hbl, Option.none_or, Option.none_or, Option.some_or]

/-- The reserved cells of the square: each finder with its separators fills an 8 × 8 corner, and the
timing strips complete row 6 and column 6. -/
theorem patternAt_eq_none_iff {side x y : Nat} (hside : 16 ≤ side) (hx : x < side) (hy : y < side) :
    patternAt side x y = none ↔
      ¬((x ≤ 7 ∧ y ≤ 7) ∨ (side - 8 ≤ x ∧ y ≤ 7) ∨ (x ≤ 7 ∧ side - 8 ≤ y) ∨ x = 6 ∨ y = 6) := by
  have hstrip : stripAt side x y = none ↔
      ¬isSeparator side x y = true ∧ ¬isTiming side x y = true := by
    unfold stripAt
    split_ifs <;> simp [*]
  simp only [patternAt_eq_or, Option.or_eq_none_iff, finderAt_eq_none_iff, hstrip, isSeparator_iff,
    isTiming_iff]
  omega

/-! ## Counting the reserved cells -/

/-- A sum along a side: the 8 cells of one corner, the middle, the 8 cells of the other corner. -/
theorem sum_map_range_corners (f : Nat → Nat) (m : Nat) :
    ((List.range (8 + m + 8)).map f).sum = ((List.range 8).map f).sum +
      ((List.range m).map (fun k => f (8 + k))).sum +
      ((List.range 8).map (fun k => f (8 + m + k))).sum := by
  simp [List.range_add, Function.comp_def, Nat.add_assoc]

theorem sum_map_range_of_eq {f : Nat → Nat} {n c : Nat} (h : ∀ k < n, f k = c) :
    ((List.range n).map f).sum = n * c := by
  rw [List.map_congr_left (g := fun _ => c) fun k hk => h k (List.mem_range.mp hk)]
  simp

theorem length_filter_eq_sum {α : Type} (p : α → Bool) (l : List α) :
    (l.filter p).length = (l.map (fun a => (p a).toNat)).sum := by
  induction l with
  | nil => rfl
  | cons a l ih => cases h : p a <;> simp [h, ih, Nat.add_comm]

/-- The number of reserved cells in a row. -/
def reservedInRow (side y : Nat) : Nat :=
  ((List.range side).filter (fun x => (patternAt side x y).isSome)).length

/-- 1 for a reserved cell, 0 for an available one. -/
def reservedCell (side x y : Nat) : Nat := (patternAt side x y).isSome.toNat

theorem reservedCell_eq {m x y : Nat} (hx : x < 8 + m + 8) (hy : y < 8 + m + 8) :
    reservedCell (8 + m + 8) x y =
      if (x ≤ 7 ∧ y ≤ 7) ∨ (8 + m ≤ x ∧ y ≤ 7) ∨ (x ≤ 7 ∧ 8 + m ≤ y) ∨ x = 6 ∨ y = 6 then 1
      else 0 := by
  have h := patternAt_eq_none_iff (by omega) hx hy
  rw [Nat.add_sub_cancel] at h
  rw [reservedCell]
  cases hp : patternAt (8 + m + 8) x y with
  | none => rw [if_neg (h.mp hp)]; rfl
  | some b => rw [if_pos (by_contra fun hn => by simp [hp] at h; omega)]; rfl

theorem reservedInRow_eq {m y : Nat} (hy : y < 8 + m + 8) :
    reservedInRow (8 + m + 8) y =
      if y = 6 then m + 16 else if y ≤ 7 then 16 else if y < 8 + m then 1 else 8 := by
  rw [reservedInRow, length_filter_eq_sum, sum_map_range_corners]
  have hmid : ((List.range m).map (fun k => reservedCell (8 + m + 8) (8 + k) y)).sum =
      m * if y = 6 then 1 else 0 := sum_map_range_of_eq fun k hk => by
    rw [reservedCell_eq (by omega) hy]
    exact if_congr (by omega) rfl rfl
  have hlast : ((List.range 8).map (fun k => reservedCell (8 + m + 8) (8 + m + k) y)).sum =
      8 * if y ≤ 7 then 1 else 0 := sum_map_range_of_eq fun k hk => by
    rw [reservedCell_eq (by omega) hy]
    exact if_congr (by omega) rfl rfl
  have hfirst : ((List.range 8).map (fun k => reservedCell (8 + m + 8) k y)).sum =
      if 8 ≤ y ∧ y < 8 + m then 1 else 8 := by
    split_ifs with hbetween
    · rw [List.map_congr_left (g := fun k => if k = 6 then 1 else 0) fun k hk => ?_]
      · rfl
      · have := List.mem_range.mp hk
        rw [reservedCell_eq (by omega) hy]
        exact if_congr (by omega) rfl rfl
    · refine sum_map_range_of_eq (n := 8) (c := 1) fun k hk => ?_
      rw [reservedCell_eq (by omega) hy]
      exact if_pos (by omega)
  unfold reservedCell at hfirst hmid hlast
  rw [hfirst, hmid, hlast]
  split_ifs <;> omega

theorem sum_reservedInRow (m : Nat) :
    ((List.range (8 + m + 8)).map (reservedInRow (8 + m + 8))).sum = 192 + 2 * m := by
  rw [sum_map_range_corners]
  have hmid : ((List.range m).map (fun k => reservedInRow (8 + m + 8) (8 + k))).sum = m * 1 :=
    sum_map_range_of_eq fun k hk => by
      rw [reservedInRow_eq (by omega), if_neg (by omega), if_neg (by omega), if_pos (by omega)]
  have hlast : ((List.range 8).map (fun k => reservedInRow (8 + m + 8) (8 + m + k))).sum = 8 * 8 :=
    sum_map_range_of_eq fun k hk => by
      rw [reservedInRow_eq (by omega), if_neg (by omega), if_neg (by omega), if_neg (by omega)]
  have hfirst : ((List.range 8).map (reservedInRow (8 + m + 8))).sum = 7 * 16 + (m + 16) := by
    rw [List.map_congr_left fun k hk => reservedInRow_eq (m := m)
      (by have := List.mem_range.mp hk; omega)]
    simp [List.range_succ]; omega
  omega

/-! ## The obligation -/

/-- Settles O54: three disjoint finders, the strips that meet no finder, and a count row by row. -/
theorem reservedCellPatterns : Obligations.ReservedCellPatterns := by
  intro v _ _
  have hside : 16 ≤ 4 * v + 17 := by omega
  refine ⟨fun dx dy hx hy => patternAt_finders hside hx hy, fun k hk => ?_, fun k h8 hk => ?_, ?_⟩
  · refine ⟨?_, ?_, ?_, ?_, ?_, ?_⟩ <;>
      exact patternAt_of_isSeparator hside (isSeparator_iff.mpr (by omega))
  · constructor
    · rw [patternAt_of_isTiming hside (isTiming_iff.mpr (.inl ⟨rfl, h8, hk⟩)), if_pos rfl]
    · rw [patternAt_of_isTiming hside (isTiming_iff.mpr (.inr ⟨rfl, h8, hk⟩)), if_neg (by omega)]
  · have hsum := sum_reservedInRow (4 * v + 1)
    rw [show 8 + (4 * v + 1) + 8 = 4 * v + 17 by omega] at hsum
    exact hsum.trans (by omega)

end Sys2Proof.Machine
end

section
/-! SUPPORT. Proofs about the placement order (43_matrix.md R216): the zig-zag is a list of column pairs,
which visit the available cells in rising position of the traversal. -/

namespace Sys2Proof.Machine

/-! ## The traversal as a list of column pairs (43_matrix.md R216) -/

/-- The right column of the k-th pair from the left: column 6 belongs to no pair. -/
def pairRight (k : Nat) : Nat := if 4 ≤ k then 2 * k else 2 * k - 1

/-- The column at which the traversal looks for the k-th pair from the left, before it skips
column 6. -/
def scanColumn (k : Nat) : Nat := if 3 ≤ k then 2 * k else 2 * k - 1

/-- One turn of the traversal's loop: the pair it finds and the column it goes on from. -/
theorem scanColumn_succ (k : Nat) :
    ¬scanColumn (k + 1) < 1 ∧
    (if scanColumn (k + 1) = 6 then 5 else scanColumn (k + 1)) = pairRight (k + 1) ∧
    pairRight (k + 1) - 2 = scanColumn k := by
  unfold scanColumn pairRight
  split_ifs <;> omega

/-- From the k-th pair on the traversal takes k pairs, in alternating direction. -/
theorem zigzag_scanColumn (side : Nat) {fuel k : Nat} (hk : k ≤ fuel) (up : Bool) :
    zigzag side fuel (scanColumn k) up =
      (List.range k).flatMap (fun p => pairCells side (pairRight (k - p)) (up ^^ p.bodd)) := by
  induction fuel generalizing k up with
  | zero =>
    obtain rfl : k = 0 := by omega
    rfl
  | succ fuel ih =>
    rcases k with _ | k
    · rfl
    · obtain ⟨hstart, hright, hnext⟩ := scanColumn_succ k
      rw [zigzag, if_neg hstart]
      simp only [hright, hnext]
      rw [ih (by omega), List.range_succ_eq_map, List.flatMap_cons, List.flatMap_map]
      simp

/-- A symbol of side 2n + 1 is traversed in n pairs, the pair p upward for even p. -/
theorem placementOrder_eq {n : Nat} (hn : 3 ≤ n) : placementOrder (2 * n + 1) =
    (List.range n).flatMap (fun p => pairCells (2 * n + 1) (pairRight (n - p)) (!p.bodd)) := by
  have h := zigzag_scanColumn (2 * n + 1) (fuel := 2 * n + 1) (k := n) (by omega) true
  rw [scanColumn, if_pos hn] at h
  simpa [placementOrder] using h

theorem mem_pairCells_iff {side right : Nat} {up : Bool} {x y : Nat} :
    (x, y) ∈ pairCells side right up ↔
      (x = right ∨ x = right - 1) ∧ y < side ∧ patternAt side x y = none := by
  have hrows : ∀ y, y ∈ (if up then (List.range side).reverse else List.range side) ↔ y < side := by
    cases up <;> simp
  simp only [pairCells, List.mem_filter, List.mem_flatMap, hrows, List.mem_cons,
    List.not_mem_nil, Prod.mk.injEq, or_false, Option.isNone_iff_eq_none]
  constructor
  · rintro ⟨⟨y', hy, ⟨hx, rfl⟩ | ⟨hx, rfl⟩⟩, hnone⟩
    · exact ⟨.inl hx, hy, hnone⟩
    · exact ⟨.inr hx, hy, hnone⟩
  · rintro ⟨hx, hy, hnone⟩
    exact ⟨⟨y, hy, by omega⟩, hnone⟩

/-- Every column but column 6 belongs to a pair. -/
theorem exists_pair_of_column {n x : Nat} (hx : x < 2 * n + 1) (h6 : x ≠ 6) (hn : 3 ≤ n) :
    ∃ p < n, x = pairRight (n - p) ∨ x = pairRight (n - p) - 1 := by
  by_cases hlow : x < 6
  · exact ⟨n - (x / 2 + 1), by omega, by unfold pairRight; split_ifs <;> omega⟩
  · exact ⟨n - (x + 1) / 2, by omega, by unfold pairRight; split_ifs <;> omega⟩

theorem pairRight_bounds {k n : Nat} (h1 : 1 ≤ k) (hk : k ≤ n) :
    1 ≤ pairRight k ∧ pairRight k < 2 * n + 1 := by
  unfold pairRight
  split_ifs <;> omega

/-- The traversal visits exactly the available cells: column 6 has none. -/
theorem mem_placementOrder_iff {n x y : Nat} (hn : 8 ≤ n) :
    (x, y) ∈ placementOrder (2 * n + 1) ↔
      x < 2 * n + 1 ∧ y < 2 * n + 1 ∧ patternAt (2 * n + 1) x y = none := by
  simp only [placementOrder_eq (n := n) (by omega), List.mem_flatMap, List.mem_range,
    mem_pairCells_iff]
  constructor
  · rintro ⟨p, hp, hx, hy, hnone⟩
    have := pairRight_bounds (k := n - p) (n := n) (by omega) (by omega)
    exact ⟨by omega, hy, hnone⟩
  · rintro ⟨hx, hy, hnone⟩
    have h6 : x ≠ 6 := fun h6 => (patternAt_eq_none_iff (by omega) hx hy).mp hnone (by omega)
    obtain ⟨p, hp, hpair⟩ := exists_pair_of_column hx h6 (by omega)
    exact ⟨p, hp, hpair, hy, hnone⟩

/-! ## The traversal key rises -/

/-- The rank of a row inside a pair: from the bottom when the pair is scanned upward. -/
def rowRank (n p y : Nat) : Nat := if p.bodd then y else 2 * n - y

theorem traversalKey_of_column {n p x i : Nat} (hi : i < 2)
    (hcol : 2 * n - (if x < 6 then x + 1 else x) = 2 * p + i) (y : Nat) :
    traversalKey (2 * n + 1) (x, y) = (p * (2 * n + 1) + rowRank n p y) * 2 + i := by
  have hrow : (if p % 2 = 0 then 2 * n - y else y) = rowRank n p y := by
    rw [Nat.mod_two_of_bodd, rowRank]
    cases p.bodd <;> rfl
  simp only [traversalKey, Nat.add_sub_cancel, hcol, ← hrow]
  rw [show (2 * p + i) / 2 = p by omega, show (2 * p + i) % 2 = i by omega]

theorem traversalKey_right {n p : Nat} (hp : p < n) (y : Nat) :
    traversalKey (2 * n + 1) (pairRight (n - p), y) =
      (p * (2 * n + 1) + rowRank n p y) * 2 :=
  traversalKey_of_column (i := 0) (by decide) (by unfold pairRight; split_ifs <;> omega) y

theorem traversalKey_left {n p : Nat} (hp : p < n) (y : Nat) :
    traversalKey (2 * n + 1) (pairRight (n - p) - 1, y) =
      (p * (2 * n + 1) + rowRank n p y) * 2 + 1 :=
  traversalKey_of_column (i := 1) (by decide) (by unfold pairRight; split_ifs <;> omega) y

/-- The keys of the pair p lie in the p-th of the bands of 2 · side numbers. -/
theorem traversalKey_band {n p : Nat} (hp : p < n) {up : Bool} {c : Nat × Nat}
    (hc : c ∈ pairCells (2 * n + 1) (pairRight (n - p)) up) :
    p * (2 * n + 1) * 2 ≤ traversalKey (2 * n + 1) c ∧
      traversalKey (2 * n + 1) c < (p + 1) * (2 * n + 1) * 2 := by
  obtain ⟨x, y⟩ := c
  obtain ⟨hx, hy, -⟩ := mem_pairCells_iff.mp hc
  have hrank : rowRank n p y ≤ 2 * n := by unfold rowRank; split_ifs <;> omega
  have hnext : (p + 1) * (2 * n + 1) = p * (2 * n + 1) + (2 * n + 1) := Nat.succ_mul _ _
  rcases hx with rfl | rfl
  · rw [traversalKey_right hp]; omega
  · rw [traversalKey_left hp]; omega

/-- The rows of a pair in scan order have rising rank. -/
theorem rows_pairwise (n p : Nat) :
    (if !p.bodd then (List.range (2 * n + 1)).reverse else List.range (2 * n + 1)).Pairwise
      (fun y z => rowRank n p y < rowRank n p z) := by
  have hrange := List.pairwise_lt_range (n := 2 * n + 1)
  cases h : p.bodd with
  | true => simpa [rowRank, h] using hrange
  | false =>
    refine List.pairwise_reverse.mpr (hrange.imp_of_mem fun _ hz hlt => ?_)
    have hz := List.mem_range.mp hz
    simp only [rowRank, h, Bool.false_eq_true, if_false]
    omega

/-- Inside a pair the key rises row by row, and from the right cell to the left. -/
theorem pairCells_pairwise {n p : Nat} (hp : p < n) :
    (pairCells (2 * n + 1) (pairRight (n - p)) (!p.bodd)).Pairwise
      (fun c d => traversalKey (2 * n + 1) c < traversalKey (2 * n + 1) d) := by
  refine List.Pairwise.filter _ (List.pairwise_flatMap.mpr ⟨fun y _ => ?_, ?_⟩)
  · simp [traversalKey_right hp, traversalKey_left hp]
  · refine (rows_pairwise n p).imp fun hlt c hc d hd => ?_
    simp only [List.mem_cons, List.not_mem_nil, or_false] at hc hd
    rcases hc with rfl | rfl <;> rcases hd with rfl | rfl <;>
      simp only [traversalKey_right hp, traversalKey_left hp] <;> omega

theorem placementOrder_pairwise {n : Nat} (hn : 3 ≤ n) :
    (placementOrder (2 * n + 1)).Pairwise
      (fun c d => traversalKey (2 * n + 1) c < traversalKey (2 * n + 1) d) := by
  rw [placementOrder_eq hn]
  refine List.pairwise_flatMap.mpr ⟨fun p hp => pairCells_pairwise (List.mem_range.mp hp), ?_⟩
  refine List.pairwise_lt_range.imp_of_mem fun {p q} hp hq hlt c hc d hd => ?_
  have hband : (p + 1) * (2 * n + 1) ≤ q * (2 * n + 1) := Nat.mul_le_mul_right _ hlt
  have hkc := (traversalKey_band (List.mem_range.mp hp) hc).2
  have hkd := (traversalKey_band (List.mem_range.mp hq) hd).1
  omega

/-! ## The placement order of a version -/

theorem sideOf_eq (v : Nat) : sideOf v = 2 * (2 * v + 8) + 1 := by
  unfold sideOf
  omega

theorem mem_placementOrder_sideOf_iff {v x y : Nat} : (x, y) ∈ placementOrder (sideOf v) ↔
    x < sideOf v ∧ y < sideOf v ∧ patternAt (sideOf v) x y = none := by
  rw [sideOf_eq]
  exact mem_placementOrder_iff (by omega)

theorem placementOrder_sideOf_pairwise (v : Nat) : (placementOrder (sideOf v)).Pairwise
    (fun c d => traversalKey (sideOf v) c < traversalKey (sideOf v) d) := by
  rw [sideOf_eq]
  exact placementOrder_pairwise (by omega)

theorem placementOrder_sideOf_nodup (v : Nat) : (placementOrder (sideOf v)).Nodup :=
  (placementOrder_sideOf_pairwise v).imp fun hlt heq => by simp [heq] at hlt

/-! ## The obligation -/

/-- Settles O55: the traversal is a list of column pairs, each inside its own band of keys. -/
theorem placementOrderIsTheZigZag : Obligations.PlacementOrderIsTheZigZag := fun v _ _ =>
  ⟨fun _ _ => mem_placementOrder_sideOf_iff, placementOrder_sideOf_pairwise v⟩

end Sys2Proof.Machine
end

section
/-! SUPPORT. Proofs about PLACE_MATRIX (43_matrix.md R220): its checks, and the cells it writes. -/

namespace Sys2Proof.Machine

/-! ## The cells of a written matrix (43_matrix.md R217, R218, R220) -/

theorem mem_patternDark_iff {side x y : Nat} :
    (x, y) ∈ patternDark side ↔ x < side ∧ y < side ∧ patternAt side x y = some true := by
  simp [patternDark, and_assoc, and_left_comm]

/-- In an order that lists each cell once, a cell is dark iff the bit at its index is 1; a missing bit
counts as 0. -/
theorem mem_dataDark_iff {order : List (Nat × Nat)} (h : order.Nodup) {bits : Bits}
    {c : Nat × Nat} (hc : c ∈ order) :
    c ∈ dataDark order bits ↔ bits.getD (order.idxOf c) false = true := by
  induction order generalizing bits with
  | nil => simp at hc
  | cons d order ih =>
    obtain ⟨hd, hnodup⟩ := List.nodup_cons.mp h
    cases bits with
    | nil => simp [dataDark]
    | cons b bits =>
      have hcons : c ∈ dataDark (d :: order) (b :: bits) ↔
          (c = d ∧ b = true) ∨ c ∈ dataDark order bits := by
        cases b <;> simp [dataDark]
      rw [hcons]
      rcases eq_or_ne c d with rfl | hne
      · simp [mt mem_dataDark hd]
      · have hmem := List.mem_of_ne_of_mem hne hc
        rw [ih hnodup hmem, List.idxOf_cons_ne _ hne.symm, List.getD_cons_succ]
        simp [hne]

/-- What a written matrix shows, cell by cell. -/
theorem State.matrixHolds_writeMatrix (s : State) (v : Nat) (bits : Bits) :
    matrixHolds (s.writeMatrix v bits) (sideOf v) bits := by
  intro x y hx hy
  split_ifs with hout
  · exact s.cell_writeMatrix_outside v bits (by omega) (by omega) hout
  · have hin : x < sideOf v ∧ y < sideOf v := by omega
    have horder := mem_placementOrder_sideOf_iff (v := v) (x := x) (y := y)
    rw [s.cell_writeMatrix v bits (by omega) (by omega), Bool.eq_iff_iff, decide_eq_true_eq,
      List.mem_append, mem_patternDark_iff]
    cases hp : patternAt (sideOf v) x y with
    | some b =>
      have hdata : (x, y) ∉ dataDark (placementOrder (sideOf v)) bits := fun h => by
        simpa [hp] using horder.mp (mem_dataDark h)
      simp [hin, hdata]
    | none =>
      have hmem := horder.mpr ⟨hin.1, hin.2, hp⟩
      simp [mem_dataDark_iff (placementOrder_sideOf_nodup v) hmem]

theorem State.writeMatrix_regsKept (s : State) (v : Nat) (bits : Bits) :
    RegsKept s (s.writeMatrix v bits) [.side] := by
  intro r _ hr
  cases r with
  | side => simp at hr
  | _ => rfl

theorem State.writeMatrix_bytesKept (s : State) (v : Nat) (bits : Bits) :
    BytesKept s (s.writeMatrix v bits) 0x800 264 := fun _ hk =>
  s.readByte_storeBytes_of_not_mem (by rwa [matrixBytes_length])

/-! ## PLACE_MATRIX (43_matrix.md R220) -/

theorem finalOperand_ok {s : State} (h : s.finalLen.toNat ≤ 512) :
    finalOperand s = .ok (s.readBytes 0x400 s.finalLen.toNat) := by
  unfold finalOperand
  exact if_neg (by unfold Config.finalBytes; omega)

theorem finalOperand_error {s : State} (h : 512 < s.finalLen.toNat) :
    finalOperand s = .error .invalidArgument := by
  unfold finalOperand
  exact if_pos h

/-- The bits PLACE_MATRIX places (43_matrix.md R217). -/
abbrev finalBits (s : State) : Bits := byteBits (s.readBytes 0x400 s.finalLen.toNat)

theorem finalBits_length (s : State) : (finalBits s).length = 8 * s.finalLen.toNat := by
  rw [finalBits, byteBits, bitsOfBytes_length, State.readBytes_length]

theorem exec_placeMatrix_invalidArgument {s : State} (h : 512 < s.finalLen.toNat) :
    exec .placeMatrix s = complete s (.error .invalidArgument) := by
  rw [exec, execPlaceMatrix, finalOperand_error h]

/-- With a legal FINAL_LEN the checks of the version and of the number of bits are left. -/
theorem exec_placeMatrix_of_le {s : State} (h : s.finalLen.toNat ≤ 512) :
    exec .placeMatrix s = complete s
      (if s.version.toNat = 0 ∨ 4 < s.version.toNat then .error .outOfRange
       else if (placementOrder (4 * s.version.toNat + 17)).length < 8 * s.finalLen.toNat then
         .error .outOfRange
       else .ok (s.writeMatrix s.version.toNat (finalBits s))) := by
  rw [exec, execPlaceMatrix, finalOperand_ok h, ← finalBits_length]
  rfl

/-! ## The obligation -/

/-- Settles O57: the checks are the branches of the rule in their order, and a written matrix shows
every cell of the symbol. -/
theorem placeMatrixWritesTheSymbol : Obligations.PlaceMatrixWritesTheSymbol := by
  refine ⟨rfl, fun s => ⟨fun h => fails_of_exec .invalidArgument
    (exec_placeMatrix_invalidArgument h), fun h => ?_⟩⟩
  have hexec := exec_placeMatrix_of_le h
  refine ⟨fun hv => fails_of_exec .outOfRange ?_, fun h1 h4 =>
    ⟨fun hfull => fails_of_exec .outOfRange ?_, fun hfit => ?_⟩⟩
  · rw [hexec, if_pos hv]
  · rw [hexec, if_neg (by omega), if_pos hfull]
  · rw [if_neg (by omega), if_neg (Nat.not_lt.mpr hfit)] at hexec
    exact ⟨_, hexec, State.finish_succeeds rfl ⟨rfl, rfl, rfl, rfl, rfl⟩,
      s.writeMatrix_side_toNat h4 (finalBits s), s.matrixHolds_writeMatrix _ _,
      State.finish_regsKept (s.writeMatrix_regsKept _ _), s.writeMatrix_bytesKept _ _⟩

end Sys2Proof.Machine
end

section
/-! SUPPORT. Proofs about the control commands (44_control.md): NOP, SOFT_RESET, and ENCODE, whose four
stores lie in disjoint buffers, so that each stage's result is still there at the end. -/

namespace Sys2Proof.Machine

/-! ## NOP and SOFT_RESET (44_control.md R240, R241) -/

/-- Settles O25: the completion is all NOP does. -/
theorem nopOnlyCompletes : Obligations.NopOnlyCompletes :=
  ⟨rfl, fun s => complete_ok s s⟩

/-- Settles O26: the cleared registers read 0, and the completion then sets DONE. -/
theorem softResetClearsRegisters : Obligations.SoftResetClearsRegisters := by
  refine ⟨rfl, fun s => ?_⟩
  obtain ⟨hpending, hstatus, henv⟩ := State.finish_succeeds (s := s.clearRegs) (u := s.clearRegs)
    rfl ⟨rfl, rfl, rfl, rfl, rfl⟩
  refine ⟨_, complete_ok s s.clearRegs, hpending, hstatus, rfl, fun r hid hr => ?_, fun k => ?_, henv⟩
  · rw [State.readReg_finish _ _ hr, State.readReg_clearRegs s hid]
  · rw [State.readByte_finish, State.readByte_clearRegs]

/-! ## One write after another -/

theorem regsKept_trans {s t u : State} {ws ws' : List Reg} (h : RegsKept s t ws)
    (h' : RegsKept t u ws') : RegsKept s u (ws ++ ws') := by
  intro r hstatus hr
  rw [List.mem_append, not_or] at hr
  exact (h' r hstatus hr.2).trans (h r hstatus hr.1)

/-- A run of bytes survives a write that ends before it or begins after it. -/
theorem Holds.of_bytesKept {t u : State} {a b n : Nat} {bs : List Byte} (h : Holds t a bs)
    (hkept : BytesKept t u b n) (hdisjoint : b + n ≤ a ∨ a + bs.length ≤ b) : Holds u a bs := by
  refine Eq.trans (List.map_congr_left fun k hk => hkept (a + k) ?_) h
  rw [List.mem_range] at hk
  omega

theorem State.writeBitbuf_holds (s : State) {bits : Bits} (hlen : bits.length ≤ 2048) :
    Holds (s.writeBitbuf bits) 0x200 (packBits bits) :=
  s.readBytes_storeBytes 0x200 (packBits bits) (.inl (by rw [packBits_length]; omega))

theorem State.writeEcbuf_holds (s : State) {c : List Byte} (hlen : c.length ≤ 32) :
    Holds (s.writeEcbuf c) 0x300 c :=
  s.readBytes_storeBytes 0x300 c (.inl (by omega))

theorem State.writeFinal_holds (s : State) {f : List Byte} (hlen : f.length ≤ 512) :
    Holds (s.writeFinal f) 0x400 f :=
  s.readBytes_storeBytes 0x400 f (.inl (by omega))

theorem State.writeEcbuf_bytesKept (s : State) (c : List Byte) :
    BytesKept s (s.writeEcbuf c) 0x300 c.length := fun _ hk =>
  s.readByte_storeBytes_of_not_mem hk

theorem State.writeFinal_bytesKept (s : State) (f : List Byte) :
    BytesKept s (s.writeFinal f) 0x400 f.length := fun _ hk =>
  s.readByte_storeBytes_of_not_mem hk

/-! ## The four stores of ENCODE (44_control.md R242) -/

/-- The stores of the pipeline's stages one after the other: the stream, the EC codewords c, the final
codewords, and the matrix of version v. -/
def State.writeStages (u : State) (v : Nat) (bits : Bits) (c : List Byte) : State :=
  (((u.writeBitbuf bits).writeEcbuf c).writeFinal (packBits bits ++ c)).writeMatrix v
    (byteBits (packBits bits ++ c))

@[simp] theorem State.writeStages_haz (u : State) (v : Nat) (bits : Bits) (c : List Byte) :
    (u.writeStages v bits c).haz = u.haz := by
  simp [State.writeStages]

@[simp] theorem State.writeStages_mode (u : State) (v : Nat) (bits : Bits) (c : List Byte) :
    (u.writeStages v bits c).mode = u.mode := by
  simp [State.writeStages]

@[simp] theorem State.writeStages_version (u : State) (v : Nat) (bits : Bits) (c : List Byte) :
    (u.writeStages v bits c).version = u.version := by
  simp [State.writeStages]

@[simp] theorem State.writeStages_bitLen (u : State) (v : Nat) (bits : Bits) (c : List Byte) :
    (u.writeStages v bits c).bitLen = BitVec.ofNat 12 bits.length := by
  simp [State.writeStages]

@[simp] theorem State.writeStages_ecLen (u : State) (v : Nat) (bits : Bits) (c : List Byte) :
    (u.writeStages v bits c).ecLen = BitVec.ofNat 6 c.length := by
  simp [State.writeStages]

@[simp] theorem State.writeStages_finalLen (u : State) (v : Nat) (bits : Bits) (c : List Byte) :
    (u.writeStages v bits c).finalLen = BitVec.ofNat 10 (packBits bits ++ c).length := by
  simp [State.writeStages]

theorem State.writeStages_side_toNat (u : State) {v : Nat} (hv : v ≤ 4) (bits : Bits)
    (c : List Byte) : (u.writeStages v bits c).side.toNat = sideOf v :=
  State.writeMatrix_side_toNat _ hv _

theorem State.writeStages_matrixHolds (u : State) (v : Nat) (bits : Bits) (c : List Byte) :
    matrixHolds (u.writeStages v bits c) (sideOf v) (byteBits (packBits bits ++ c)) :=
  State.matrixHolds_writeMatrix _ v _

theorem State.writeStages_envKept {s u : State} (h : EnvKept s u) (v : Nat) (bits : Bits)
    (c : List Byte) : EnvKept s (u.writeStages v bits c) := by
  simpa [EnvKept, State.writeStages] using h

theorem State.writeStages_regsKept {s u : State} {ws : List Reg} (h : RegsKept s u ws) (v : Nat)
    (bits : Bits) (c : List Byte) :
    RegsKept s (u.writeStages v bits c) (ws ++ [.bitLen] ++ [.ecLen] ++ [.finalLen] ++ [.side]) := by
  have hbits := State.writeBitbuf_regsKept h bits
  have hec := regsKept_trans hbits (State.writeEcbuf_regsKept _ c)
  have hfinal := regsKept_trans hec (State.writeFinal_regsKept _ (packBits bits ++ c))
  exact regsKept_trans hfinal (State.writeMatrix_regsKept _ v (byteBits (packBits bits ++ c)))

/-- A byte outside the four written ranges is kept. -/
theorem State.readByte_writeStages (u : State) (v : Nat) (bits : Bits) (c : List Byte) {k : Nat}
    (hbits : ¬(0x200 ≤ k ∧ k < 0x200 + (packBits bits).length))
    (hec : ¬(0x300 ≤ k ∧ k < 0x300 + c.length))
    (hfinal : ¬(0x400 ≤ k ∧ k < 0x400 + (packBits bits ++ c).length))
    (hmatrix : ¬(0x800 ≤ k ∧ k < 0x908)) : (u.writeStages v bits c).readByte k = u.readByte k := by
  rw [packBits_length] at hbits
  rw [State.writeStages, State.writeMatrix_bytesKept _ _ _ k hmatrix,
    State.writeFinal_bytesKept _ _ k hfinal, State.writeEcbuf_bytesKept _ _ k hec,
    State.writeBitbuf_bytesKept _ _ k hbits]

/-- Results that fit their buffers are all there at the end: no store reaches another buffer. -/
theorem State.writeStages_holds (u : State) (v : Nat) {bits : Bits} {c : List Byte}
    (hbits : bits.length ≤ 2048) (hec : c.length ≤ 32)
    (hfinal : (packBits bits ++ c).length ≤ 512) :
    Holds (u.writeStages v bits c) 0x200 (packBits bits) ∧ Holds (u.writeStages v bits c) 0x300 c ∧
      Holds (u.writeStages v bits c) 0x400 (packBits bits ++ c) := by
  have hlen : (packBits bits).length ≤ 256 := by
    rw [packBits_length]
    omega
  have hecKept := (u.writeBitbuf bits).writeEcbuf_bytesKept c
  have hfinalKept := ((u.writeBitbuf bits).writeEcbuf c).writeFinal_bytesKept (packBits bits ++ c)
  have hmatrixKept := State.writeMatrix_bytesKept
    (((u.writeBitbuf bits).writeEcbuf c).writeFinal (packBits bits ++ c)) v
    (byteBits (packBits bits ++ c))
  refine ⟨?bitbuf, ?ecbuf, ?final⟩
  case bitbuf =>
    exact (((u.writeBitbuf_holds hbits).of_bytesKept hecKept (by omega)).of_bytesKept hfinalKept
      (by omega)).of_bytesKept hmatrixKept (by omega)
  case ecbuf =>
    exact ((State.writeEcbuf_holds _ hec).of_bytesKept hfinalKept (by omega)).of_bytesKept
      hmatrixKept (by omega)
  case final => exact (State.writeFinal_holds _ hfinal).of_bytesKept hmatrixKept (by omega)

/-- What a command leaves that sets registers and then writes results that fit their buffers. -/
theorem complete_writeStages {s u : State} {ws : List Reg} {v : Nat} {bits : Bits} {c : List Byte}
    (hhaz : u.haz = s.haz) (henv : EnvKept s u) (hregs : RegsKept s u ws) (hbytes : AllBytesKept s u)
    (hv : v ≤ 4) (hbits : bits.length ≤ 2048) (hec : c.length ≤ 32) :
    ∃ t, complete s (.ok (u.writeStages v bits c)) = .next t ∧ Succeeds s t ∧
      t.mode = u.mode ∧ t.version = u.version ∧
      t.bitLen.toNat = bits.length ∧ Holds t 0x200 (packBits bits) ∧
      t.ecLen.toNat = c.length ∧ Holds t 0x300 c ∧
      t.finalLen.toNat = (packBits bits ++ c).length ∧ Holds t 0x400 (packBits bits ++ c) ∧
      t.side.toNat = sideOf v ∧ matrixHolds t (sideOf v) (byteBits (packBits bits ++ c)) ∧
      RegsKept s t (ws ++ [.bitLen] ++ [.ecLen] ++ [.finalLen] ++ [.side]) ∧
      (∀ k, ¬(0x200 ≤ k ∧ k < 0x200 + (packBits bits).length) →
        ¬(0x300 ≤ k ∧ k < 0x300 + c.length) →
        ¬(0x400 ≤ k ∧ k < 0x400 + (packBits bits ++ c).length) →
        ¬(0x800 ≤ k ∧ k < 0x908) → t.readByte k = s.readByte k) := by
  have hfinal : (packBits bits ++ c).length ≤ 512 := by
    rw [List.length_append, packBits_length]
    omega
  obtain ⟨hholdsData, hholdsEc, hholdsFinal⟩ := u.writeStages_holds v hbits hec hfinal
  refine ⟨_, complete_ok s _, State.finish_succeeds ?haz
    (State.writeStages_envKept henv v bits c), ?mode, ?version, ?bitLen, hholdsData,
    ?ecLen, hholdsEc, ?finalLen, hholdsFinal, u.writeStages_side_toNat hv bits c,
    u.writeStages_matrixHolds v bits c,
    State.finish_regsKept (State.writeStages_regsKept hregs v bits c), fun k h1 h2 h3 h4 => ?bytes⟩
  case haz => rw [State.writeStages_haz, hhaz]
  case mode => rw [State.finish_mode, State.writeStages_mode]
  case version => rw [State.finish_version, State.writeStages_version]
  case bitLen => rw [State.finish_bitLen, State.writeStages_bitLen, toNat_ofNat_of_lt (by omega)]
  case ecLen => rw [State.finish_ecLen, State.writeStages_ecLen, toNat_ofNat_of_lt (by omega)]
  case finalLen =>
    rw [State.finish_finalLen, State.writeStages_finalLen, toNat_ofNat_of_lt (by omega)]
  case bytes => rw [State.readByte_finish, u.readByte_writeStages v bits c h1 h2 h3 h4, hbytes]

/-! ## The configuration (41_bitstream.md R131, 42_reed_solomon.md R180) -/

theorem capRow_total_le {v : Nat} {l : Level} {r : CapRow} (h : capRow v l = some r) :
    r.ec ≤ r.total ∧ r.total ≤ 100 := by
  have hrom : ∀ v ∈ Config.capVersions, ∀ l ∈ [Level.L, .M, .Q, .H],
      ∀ r ∈ capRow v l, r.ec ≤ r.total ∧ r.total ≤ 100 := by decide
  obtain ⟨h1, h4⟩ := (capRow_isSome v l).mp (by rw [h]; rfl)
  refine hrom v ?_ l (mem_levels l) r h
  rw [capVersions_eq_range', List.mem_range'_1]
  omega

theorem capBits_eq {v : Nat} {l : Level} {r : CapRow} (h : capRow v l = some r) :
    capBits v l = 8 * (r.total - r.ec) := by
  rw [capBits, dataCW, h]

/-! ## ENCODE (44_control.md R242) -/

/-- The padded stream of the text in version v (41_bitstream.md R153). -/
abbrev streamOf (s : State) (v : Nat) : Bits := padded (textOf s) v (levelOf s.level)

/-- Past the checks of the text the number of blocks decides. -/
theorem exec_encode_of_version {s : State} {v : Nat} {r : CapRow} (h : s.textLen.toNat ≤ 256)
    (hv : smallestVersion (textOf s) (levelOf s.level) = some v)
    (hrow : capRow v (levelOf s.level) = some r) :
    exec .encode s = complete s
      (if r.blocks = 1 then .ok ({ s with
          mode := modeCode (selectMode (textOf s)), version := BitVec.ofNat 6 v }.writeStages v
            (streamOf s v) (divide (packBits (streamOf s v)) r.ec))
       else .error .notImplemented) := by
  rw [exec, execEncode, textOperand_ok h]
  simp only [hv, singleBlock, ecCount, hrow, beq_iff_eq]
  rfl

/-- Settles O59: the checks are the branches of the rule in their order, and the results of a
single-block configuration fit their registers and buffers. -/
theorem encodeRunsThePipeline : Obligations.EncodeRunsThePipeline := by
  refine ⟨rfl, fun s => ⟨fun h => fails_of_exec .invalidArgument ?_,
    fun h hnone => fails_of_exec .outOfRange ?_, fun v r h hv hrow =>
      ⟨fun hb => fails_of_exec .notImplemented ?_, fun hb => ?_⟩⟩⟩
  · rw [exec, execEncode, textOperand_error h]
  · rw [exec, execEncode, textOperand_ok h]
    simp only [hnone]
  · rw [exec_encode_of_version h hv hrow, if_neg hb]
  · intro d f
    have hexec := exec_encode_of_version h hv hrow
    rw [if_pos hb] at hexec
    obtain ⟨-, h4⟩ := smallestVersion_range hv
    obtain ⟨htotal, h100⟩ := capRow_total_le hrow
    have hec := capRow_ec_le hrow hb
    have hbits : (streamOf s v).length = 8 * (r.total - r.ec) :=
      (padded_length hv).trans (capBits_eq hrow)
    have hd : d.length = r.total - r.ec := by
      rw [packBits_length, hbits]
      omega
    have hc : (divide d r.ec).length = r.ec := divide_length d r.ec
    have hf : f.length = r.total := by
      rw [List.length_append, hd, hc]
      omega
    obtain ⟨t, ht, hsucc, hmode, hversion, hbitLen, hdata, hecLen, hcodewords, hfinalLen, hfinal,
      hside, hmatrix, hregs, hbytes⟩ := complete_writeStages
        (s := s) (u := { s with
          mode := modeCode (selectMode (textOf s)), version := BitVec.ofNat 6 v }) rfl
        ⟨rfl, rfl, rfl, rfl, rfl⟩ (regsKept_mode_version s _ _) (fun _ => rfl) h4
        (bits := streamOf s v) (c := divide d r.ec) (by omega) (by omega)
    rw [hbits] at hbitLen
    rw [hc] at hecLen
    rw [hf] at hfinalLen
    rw [hd, hc, hf] at hbytes
    refine ⟨t, hexec.trans ht, hsucc, ?_, ?_, hd, hbitLen, hdata, hecLen, hcodewords,
      hfinalLen, hfinal, hside, hmatrix, hregs, hbytes⟩
    · rw [hmode, modeRule_eq]
    · rw [hversion, versionField_toNat h4]

end Sys2Proof.Machine
end

section
/-! SUPPORT. Proofs about the outcome of a command (60_exceptions.md): what a command that raises an
error leaves unchanged, and which steps keep STATUS.DONE, ERR and ERRCODE. -/

namespace Sys2Proof.Machine

/-! ## Errors (60_exceptions.md R263) -/

/-- A completion that sets ERR changes STATUS alone, and its code is that of an error. -/
theorem complete_of_err {s t : State} {r : Except ErrCode State} (h : complete s r = .next t)
    (herr : t.err = true) : ∃ e : ErrCode, t = s.finish (some e) := by
  rcases complete_cases h with ⟨u, -, rfl⟩ | ⟨e, -, rfl⟩
  · simp at herr
  · exact ⟨e, rfl⟩

/-- Settles O9: every command is a completion, and a completion that sets ERR drops the writes. -/
theorem failedCommandChangesOnlyStatus : Obligations.FailedCommandChangesOnlyStatus := by
  intro i s t h herr
  obtain ⟨r, hr⟩ := exec_is_complete i s
  obtain ⟨e, rfl⟩ := complete_of_err (hr ▸ h) herr
  exact ⟨rfl, e.code_range.left⟩

/-! ## The outcome in STATUS (60_exceptions.md R268) -/

/-- DONE, ERR and ERRCODE are unchanged. -/
abbrev OutcomeKept (s t : State) : Prop :=
  t.done = s.done ∧ t.err = s.err ∧ t.errCode = s.errCode

/-- Of the register writes only an acceptance clears the outcome. -/
theorem State.writeReg_outcomeKept {r : Reg} (h : r ≠ .cmd) (s : State) (v : Word) :
    OutcomeKept s (s.writeReg r v) := by
  cases r with
  | cmd => exact absurd rfl h
  | status => rw [State.writeReg_status]; exact ⟨rfl, rfl, rfl⟩
  | _ => exact ⟨rfl, rfl, rfl⟩

theorem State.writeWord_outcomeKept {k : Nat} (hc : k ≠ 0x004) (s : State) (v : Word) :
    OutcomeKept s (s.writeWord k v) := by
  rcases s.writeWord_cases k v with ⟨r, hreg, hw⟩ | hw | hw <;> rw [hw]
  · refine State.writeReg_outcomeKept ?_ s v
    rintro rfl
    exact hc (regAt_eq_some_iff.mp hreg)
  all_goals exact ⟨rfl, rfl, rfl⟩

theorem busRead_outcomeKept (s : State) (a : Addr) : OutcomeKept s (busRead s a) := by
  rcases busRead_cases s a with ⟨v, hr⟩ | hr <;> rw [hr] <;> exact ⟨rfl, rfl, rfl⟩

/-- A bus write that is no acceptance keeps the outcome: in reset it does nothing, in a BUSY window
it sets HAZ alone, and while idle its word is not CMD. -/
theorem busWrite_outcomeKept {s : State} {a : Addr} (h : ¬(wordAddress a = 0x004 ∧ Idle s))
    (v : Word) : OutcomeKept s (busWrite s a v) := by
  cases hr : s.resetIn with
  | true => rw [busWrite, if_pos hr]; exact ⟨rfl, rfl, rfl⟩
  | false =>
    cases hp : s.pending with
    | some w => rw [busWrite_of_busy (by simp [State.busy, hp]) hr]; exact ⟨rfl, rfl, rfl⟩
    | none =>
      rw [busWrite_of_idle hp hr]
      exact State.writeWord_outcomeKept (fun hc => h ⟨hc, hp, hr⟩) s v

/-- Settles O10: a step is a completion, an event of the outside world or nothing, and of the events
only an acceptance and a reset event touch the outcome. -/
theorem outcomePersists : Obligations.OutcomePersists := by
  refine ⟨fun s t hst hchanged => ?step, fun s a v ha =>
    ⟨busRead_outcomeKept s a, busWrite_outcomeKept (by omega) v⟩⟩
  have hnot : ¬OutcomeKept s t := by
    rintro ⟨hdone, herr, hcode⟩
    simp [hdone, herr, hcode] at hchanged
  rcases step_cases hst with ⟨w, hturn, -⟩ | ⟨e, rest, hturn, -, rfl⟩ | ⟨-, rfl⟩
  · exact .inl ⟨w, hturn⟩
  · cases hop : e.op with rw [hop] at hturn hnot
    | read a => exact absurd (busRead_outcomeKept { s with inputs := rest } a) hnot
    | resetPin b => exact .inr (.inl ⟨b, rest, hturn⟩)
    | write a v =>
      by_cases haccept : wordAddress a = 0x004 ∧ Idle s
      · exact .inr (.inr ⟨a, v, rest, hturn, haccept⟩)
      · exact absurd (busWrite_outcomeKept (s := { s with inputs := rest }) haccept v) hnot
  · exact absurd ⟨rfl, rfl, rfl⟩ hnot

end Sys2Proof.Machine
end

section
/-! SUPPORT. Proofs about the BUSY windows (70_reset_and_hazards.md R301, R302): HAZ is no operand
of a command, which steps clear it, and what a read answers while a command is pending. -/

namespace Sys2Proof.Machine

/-! ## HAZ is no operand (70_reset_and_hazards.md R301) -/

/-- The state with STATUS.HAZ at a given value. -/
abbrev State.withHaz (b : Bool) (s : State) : State := { s with haz := b }

theorem textOperand_withHaz (s : State) (b : Bool) :
    textOperand (s.withHaz b) = textOperand s := rfl

theorem codewordOperand_withHaz (s : State) (b : Bool) :
    codewordOperand (s.withHaz b) = codewordOperand s := rfl

theorem ecOperand_withHaz (s : State) (b : Bool) : ecOperand (s.withHaz b) = ecOperand s := rfl

theorem finalOperand_withHaz (s : State) (b : Bool) :
    finalOperand (s.withHaz b) = finalOperand s := rfl

/-- A completion carries HAZ through: to a success from the command's own writes, to an error from
the state before. -/
theorem complete_withHaz {s t : State} {r : Except ErrCode State} (h : complete s r = .next t)
    (b : Bool) : complete (s.withHaz b) (r.map (State.withHaz b)) = .next (t.withHaz b) := by
  rcases complete_cases h with ⟨u, rfl, rfl⟩ | ⟨e, rfl, rfl⟩ <;> rfl

/-- The rule of a command other than SOFT_RESET neither reads nor writes HAZ: its checks and its
results are those of the same state with another HAZ. The commands are grouped by how many checks
they make in a row, one `split` a check. -/
theorem exec_rule_withHaz {i : Instr} (hi : i ≠ .softReset) (s : State) (b : Bool) :
    ∃ r, exec i s = complete s r ∧
      exec i (s.withHaz b) = complete (s.withHaz b) (r.map (State.withHaz b)) := by
  cases i with
  | softReset => exact absurd rfl hi
  | nop | gfExp | gfMula | gfXor | gfMul => exact ⟨.ok _, rfl, rfl⟩
  | gfLog | genPoly | modeInd | capLookup =>
    refine ⟨_, rfl, congrArg (complete _) ?_⟩
    dsimp only
    split <;> rfl
  | selectMode | buildBitstream =>
    refine ⟨_, rfl, congrArg (complete _) ?_⟩
    rw [textOperand_withHaz]
    split <;> rfl
  | selectVersion | buildPadded | assemble =>
    refine ⟨_, rfl, congrArg (complete _) ?_⟩
    simp only [textOperand_withHaz, codewordOperand_withHaz, ecOperand_withHaz]
    split
    · rfl
    · split <;> rfl
  | encode | rsEncode | placeMatrix =>
    refine ⟨_, rfl, congrArg (complete _) ?_⟩
    simp only [textOperand_withHaz, codewordOperand_withHaz, finalOperand_withHaz]
    split
    · rfl
    · split
      · rfl
      · split <;> rfl
  | countInd =>
    refine ⟨_, rfl, congrArg (complete _) ?_⟩
    dsimp only
    split
    · rfl
    · split
      · rfl
      · split
        · rfl
        · split <;> rfl

/-- A command's result is the same under every HAZ, which it carries through, but for SOFT_RESET,
which clears it. -/
theorem exec_withHaz {i : Instr} {s t : State} (h : exec i s = .next t) (b : Bool) :
    exec i (s.withHaz b) = .next (t.withHaz (if i = .softReset then false else b)) := by
  by_cases hi : i = .softReset
  · subst hi
    obtain rfl := Host.Outcome.next.inj h
    rfl
  · obtain ⟨r, hs, hb⟩ := exec_rule_withHaz hi s b
    rw [hb, if_neg hi]
    exact complete_withHaz (hs ▸ h) b

/-! ## Which steps clear HAZ (70_reset_and_hazards.md R301) -/

/-- HAZ at the end of a command, by running it with the HAZ it has. -/
theorem exec_haz {i : Instr} {s t : State} (h : exec i s = .next t) :
    t.haz = if i = .softReset then false else s.haz := by
  have hself := exec_withHaz h s.haz
  rw [State.withHaz, h] at hself
  exact congrArg State.haz (Host.Outcome.next.inj hself)

/-- A completion clears HAZ only as that of SOFT_RESET. -/
theorem engineStep_clears_haz {s t : State} {w : Word} (h : engineStep s w = .next t)
    (hset : s.haz = true) (hclear : t.haz = false) : decode w = .command .softReset := by
  rcases engineStep_cases h with ⟨i, hdec, hexec⟩ | ⟨why, -, rfl⟩
  · have hhaz := exec_haz hexec
    by_cases hi : i = .softReset
    · rw [hdec, hi]
    · simp [hi, hset, hclear] at hhaz
  · simp [hset] at hclear

/-- Of the word writes only that of STATUS with bit 3 set clears HAZ. -/
theorem State.writeWord_clears_haz {s : State} {k : Nat} {v : Word} (hset : s.haz = true)
    (hclear : (s.writeWord k v).haz = false) : k = 0x008 ∧ v.getLsbD 3 = true := by
  rcases s.writeWord_cases k v with ⟨r, hreg, hw⟩ | hw | hw <;> rw [hw] at hclear
  · by_cases hr : r = .status
    · subst hr
      rw [State.writeReg_status] at hclear
      exact ⟨regAt_eq_some_iff.mp hreg, by simpa [hset] using hclear⟩
    · simp [State.writeReg_haz hr, hset] at hclear
  all_goals simp [hset] at hclear

/-- A bus write clears HAZ only while idle: in reset it does nothing, and in a BUSY window it sets
HAZ. -/
theorem busWrite_clears_haz {s : State} {a : Addr} {v : Word} (hset : s.haz = true)
    (hclear : (busWrite s a v).haz = false) :
    wordAddress a = 0x008 ∧ v.getLsbD 3 = true ∧ Idle s := by
  cases hr : s.resetIn with
  | true => simp [busWrite, hr, hset] at hclear
  | false =>
    cases hp : s.pending with
    | some w => simp [busWrite_of_busy (s := s) (by simp [State.busy, hp]) hr] at hclear
    | none =>
      rw [busWrite_of_idle hp hr] at hclear
      obtain ⟨ha, hv⟩ := State.writeWord_clears_haz hset hclear
      exact ⟨ha, hv, hp, hr⟩

theorem busRead_haz (s : State) (a : Addr) : (busRead s a).haz = s.haz := by
  rcases busRead_cases s a with ⟨v, hr⟩ | hr <;> rw [hr] <;> rfl

/-- Settles O19: the three steps that clear HAZ are told apart by the agent that moves, and HAZ is
no operand of a command. -/
theorem busyWindowWrites : Obligations.BusyWindowWrites := by
  refine ⟨fun s a v ⟨hb, hr⟩ => busWrite_of_busy hb hr a v, fun s t hst hset hclear => ?clear,
    fun i s t b h => exec_withHaz h b⟩
  rcases step_cases hst with ⟨w, hturn, -, -, hengine⟩ | ⟨e, rest, hturn, -, rfl⟩ | ⟨-, rfl⟩
  · exact .inl ⟨w, hturn, engineStep_clears_haz hengine hset hclear⟩
  · cases hop : e.op with rw [hop] at hturn hclear
    | read a => simp [busStep, busRead_haz, hset] at hclear
    | resetPin b => exact .inr (.inl ⟨b, rest, hturn⟩)
    | write a v =>
      obtain ⟨ha, hv, hidle⟩ := busWrite_clears_haz (s := { s with inputs := rest }) hset hclear
      exact .inr (.inr ⟨a, v, rest, hturn, ha, hv, hidle⟩)
  · simp [hset] at hclear

/-! ## Reads in a BUSY window (70_reset_and_hazards.md R302) -/

theorem busRead_status_of_busy {s : State} (hb : s.busy = true) (hr : s.resetIn = false) {a : Addr}
    (ha : wordAddress a = 0x008) : busRead s a = s.reply s.statusWord := by
  simp [busRead, hb, hr, ha, regAt]

theorem busRead_id_of_busy {s : State} (hb : s.busy = true) (hr : s.resetIn = false) {a : Addr}
    (ha : wordAddress a = 0x000) : busRead s a = s.reply Config.idValue := by
  simp [busRead, hb, hr, ha, regAt]

/-- Every word but STATUS and ID answers a free value while a command is pending. -/
theorem busRead_other_of_busy {s : State} (hb : s.busy = true) (hr : s.resetIn = false) {a : Addr}
    (hstatus : wordAddress a ≠ 0x008) (hid : wordAddress a ≠ 0x000) :
    busRead s a = s.replyUnspecified := by
  simp only [busRead, hb, hr, if_true, Bool.false_eq_true, if_false]
  split
  · next h => exact absurd (regAt_eq_some_iff.mp h) hstatus
  · next h => exact absurd (regAt_eq_some_iff.mp h) hid
  · rfl

/-- While a command is pending a legal STATUS shows BUSY and HAZ alone (10_state.md R23). -/
theorem State.statusWord_of_busy {s : State} (hb : s.busy = true) (h : s.statusLegal = true) :
    s.statusWord = if s.haz then 9 else 1 := by
  obtain ⟨hdone, herr, hcode⟩ : s.done = false ∧ s.err = false ∧ s.errCode = 0 := by
    simp only [State.statusLegal, hb, Bool.not_true, Bool.false_or, Bool.and_eq_true,
      Bool.not_eq_true', beq_iff_eq] at h
    tauto
  cases hh : s.haz <;> simp [State.statusWord, hb, hdone, herr, hcode, hh]

/-- Settles O20: the three answers are the branches of a read in a BUSY window. -/
theorem busyWindowReads : Obligations.BusyWindowReads := by
  rintro s a ⟨hb, hr⟩
  refine ⟨fun ha => ⟨busRead_status_of_busy hb hr ha, fun hlegal => ?_⟩,
    busRead_id_of_busy hb hr, busRead_other_of_busy hb hr⟩
  rw [State.statusWord_of_busy hb hlegal]
  cases s.haz <;> rfl

end Sys2Proof.Machine
end

section
/-! SUPPORT. Proof that the decoder and the encoder of command words invert each other
(30_encoding.md R80, R82). -/

namespace Sys2Proof

/-- A legal word has a clear reserved field, and its OPCODE is the command's. -/
theorem opcode_of_decode {w : Word} {i : Instr} (h : decode w = .command i) :
    w.toNat / 256 = 0 ∧ opcode i = w.toNat % 256 := by
  by_cases hres : w.toNat / 256 = 0
  · cases hd : decodeOpcode (w.toNat % 256) with
    | none => simp [decode, hres, hd] at h
    | some j =>
      obtain rfl : j = i := by simpa [decode, hres, hd] using h
      exact ⟨hres, opcode_of_decodeOpcode hd⟩
  · rw [decode_of_reserved hres] at h
    cases h

theorem opcode_lt (i : Instr) : opcode i < 256 := by
  cases i <;> decide

@[simp] theorem encode_toNat (i : Instr) : (encode i).toNat = opcode i := by
  have := opcode_lt i
  rw [encode, BitVec.toNat_ofNat]
  omega

@[simp] theorem decode_encode (i : Instr) : decode (encode i) = .command i := by
  have := opcode_lt i
  exact decode_of_opcode (by rw [encode_toNat]; omega) (by rw [encode_toNat]; omega)

/-- Settles O2: a legal word is its OPCODE under a clear reserved field, which is what the encoder
writes. -/
theorem decodeAgreesWithEncode : Obligations.DecodeAgreesWithEncode := by
  refine fun w i => ⟨fun h => ?_, fun h => h ▸ decode_encode i⟩
  obtain ⟨hres, hop⟩ := opcode_of_decode h
  apply BitVec.eq_of_toNat_eq
  rw [encode_toNat]
  omega

end Sys2Proof
end

section
/-! SUPPORT. Proofs of what the spec derives about GF(256) (40_gf256.md R108, R109): the two ROMs invert
each other, and the product obeys the field laws. -/

namespace Sys2Proof.Machine

theorem expRom_mula (a b : Byte) : expRom (mula a b) = gmul (expRom a) (expRom b) := by
  apply BitVec.eq_of_toNat_eq
  rw [expRom_toNat, alphaPow_mula,
    gmul_toNat_of_powers (expRom_toNat a).symm (expRom_toNat b).symm]

/-- Settles O33: exponent sums by the powers of α, and the ROMs' inversion by `logRom_spec` and
`logRom_expRom`. -/
theorem romsAreExact : Obligations.RomsAreExact :=
  ⟨expRom_mula, fun _ => logRom_spec, logRom_expRom, rfl⟩

/-- The element whose logarithm is 255 less that of a is the inverse of a: α has order 255. -/
theorem gmul_inverse {a l : Byte} (h : logRom a = some l) : gmul a (expRom (255 - l)) = 1 := by
  have ha : a ≠ 0 := by
    rintro rfl
    cases h
  obtain ⟨x, hx, hlt, rfl⟩ := logRom_spec ha
  obtain rfl : x = l := Option.some.inj (hx.symm.trans h)
  apply BitVec.eq_of_toNat_eq
  have hsum : x.toNat + (255 - x : Byte).toNat = 0 + 255 := by
    rw [BitVec.toNat_sub_of_le (BitVec.le_def.mpr hlt.le)]
    exact Nat.add_sub_cancel' hlt.le
  rw [gmul_toNat_of_powers (expRom_toNat x).symm (expRom_toNat _).symm, hsum, alphaPow_add_255]
  rfl

/-- Settles O34: the laws by exponents, and distribution by polynomial multiplication. -/
theorem fieldLaws : Obligations.FieldLaws :=
  ⟨gmul_comm, gmul_assoc, fun a => ⟨gmul_one_right a, gmul_zero_right a⟩, gmul_xor_right,
    fun _ _ => gmul_inverse⟩

end Sys2Proof.Machine
end

section
/-! SUPPORT. Proofs of what the spec derives about capacities and streams (41_bitstream.md sections 1
and 6): how the selected version moves with the text, and the length of a padded stream. -/

namespace Sys2Proof.Machine

theorem mem_capVersions {v : Nat} (h1 : 1 ≤ v) (h4 : v ≤ 4) : v ∈ Config.capVersions := by
  rw [capVersions_eq_range', List.mem_range'_1]
  omega

/-- The capacity rises strictly from each version to the next (41_bitstream.md R131). -/
theorem capacityOf_strictMono (l : Level) (m : Mode) {u v : Nat} (h1 : 1 ≤ u) (huv : u < v)
    (h4 : v ≤ 4) : capacityOf u l m < capacityOf v l m := by
  have hrom : ∀ u ∈ Config.capVersions, ∀ v ∈ Config.capVersions, u < v →
      capacityOf u l m < capacityOf v l m := by
    cases l <;> cases m <;> decide
  exact hrom u (mem_capVersions h1 (by omega)) v (mem_capVersions (by omega) h4) huv

/-- The front of a text selects a mode at least as dense, so it has at least the text's capacity. -/
theorem capacityOf_append_le (t u : List Byte) (l : Level) {v : Nat} (h1 : 1 ≤ v) (h4 : v ≤ 4) :
    capacityOf v l (selectMode (t ++ u)) ≤ capacityOf v l (selectMode t) := by
  have hrom : ∀ v ∈ Config.capVersions,
      capacityOf v l .alphanumeric ≤ capacityOf v l .numeric ∧
        capacityOf v l .byte ≤ capacityOf v l .alphanumeric := by
    cases l <;> decide
  obtain ⟨halnum, hbyte⟩ := hrom v (mem_capVersions h1 h4)
  have hdigit : (t ++ u).all isDigit = true → t.all isDigit = true := by
    rw [List.all_append, Bool.and_eq_true]
    exact And.left
  have halpha : (t ++ u).all isAlnum = true → t.all isAlnum = true := by
    rw [List.all_append, Bool.and_eq_true]
    exact And.left
  unfold selectMode
  split_ifs <;> grind

/-- Settles O36: the ROM's columns rise with the version and with the density of the mode. -/
theorem versionIsMonotonic : Obligations.VersionIsMonotonic := by
  refine ⟨fun l m u v => capacityOf_strictMono l m, fun t u l w h => ?_⟩
  obtain ⟨⟨h1, h4⟩, hfit, -⟩ := (smallestVersion_eq_some_iff _ l w).mp h
  have hle := capacityOf_append_le t u l h1 h4
  have hlt : t.length < capacityOf w l (selectMode t) := by
    rw [List.length_append] at hfit
    omega
  cases hv : smallestVersion t l with
  | none =>
    have := (smallestVersion_eq_none_iff t l).mp hv w h1 h4
    omega
  | some v =>
    obtain ⟨-, -, hleast⟩ := (smallestVersion_eq_some_iff t l v).mp hv
    refine ⟨v, rfl, Nat.le_of_not_lt fun hwv => ?_⟩
    have := hleast w h1 hwv
    omega

/-- Settles O47: the header fits, and `fillTo` fills the rest. -/
theorem paddedStreamHasTheCapacityLength : Obligations.PaddedStreamHasTheCapacityLength :=
  fun _ _ _ => padded_length

end Sys2Proof.Machine
end

section
/-! SUPPORT. What a command computes, apart from the state it writes to (30_encoding.md R84): its rule
gives an error or the writes it makes, and these have one of a few forms, its effects. Everything that is
said of all commands follows from the effects. -/

namespace Sys2Proof.Machine

/-! ## The rule of a command -/

/-- The text and its smallest version, as SELECT_VERSION, BUILD_PADDED and ENCODE check them
(41_bitstream.md R139, R140). -/
def versionOperand (s : State) : Except ErrCode (List Byte × Nat) :=
  match textOperand s with
  | .error e => .error e
  | .ok t =>
    match smallestVersion t (levelOf s.level) with
    | none => .error .outOfRange
    | some v => .ok (t, v)

/-- The selected mode and version of a text in their registers. -/
def State.select (s : State) (t : List Byte) (v : Nat) : State :=
  { s with mode := modeCode (selectMode t), version := BitVec.ofNat 6 v }

/-- What a command computes from its operands in s: an error, or the writes it makes to a state. -/
def commandRule (i : Instr) (s : State) : Except ErrCode (State → State) :=
  match i with
  | .nop => .ok id
  | .selectMode => (textOperand s).map fun t u => { u with mode := modeCode (selectMode t) }
  | .selectVersion => (versionOperand s).map fun p u => u.select p.1 p.2
  | .capLookup =>
    match capRow s.version.toNat (levelOf s.level), modeOf s.mode with
    | some r, some m => .ok (·.withCapacity r m)
    | _, _ => .error .notFound
  | .modeInd =>
    match modeOf s.mode with
    | some .kanji => .error .notImplemented
    | some m => .ok fun u => { u with fieldVal := (modeCode m).setWidth 16, fieldW := 4 }
    | none => .error .invalidArgument
  | .countInd =>
    if Config.textMax < s.textLen.toNat then .error .invalidArgument
    else match modeOf s.mode with
      | none => .error .invalidArgument
      | some m =>
        match countWidth s.version.toNat m with
        | none => .error .invalidArgument
        | some w =>
          if 2 ^ w ≤ s.textLen.toNat then .error .outOfRange
          else .ok fun u =>
            { u with fieldVal := s.textLen.setWidth 16, fieldW := BitVec.ofNat 5 w }
  | .buildBitstream => (textOperand s).map fun t u =>
      { u with mode := modeCode (selectMode t) }.writeBitbuf (dataBits t)
  | .buildPadded => (versionOperand s).map fun p u =>
      (u.select p.1 p.2).writeBitbuf (padded p.1 p.2 (levelOf s.level))
  | .gfLog =>
    match logRom s.gfA with
    | some a => .ok fun u => { u with gfR := a }
    | none => .error .notImplemented
  | .gfExp => .ok fun u => { u with gfR := expRom s.gfA }
  | .gfMula => .ok fun u => { u with gfR := mula s.gfA s.gfB }
  | .gfXor => .ok fun u => { u with gfR := s.gfA ^^^ s.gfB }
  | .gfMul => .ok fun u => { u with gfR := gmul s.gfA s.gfB }
  | .genPoly =>
    if s.genDeg.toNat = 0 ∨ Config.genMaxDeg < s.genDeg.toNat then .error .invalidArgument
    else .ok (·.writeGenbuf s.genDeg.toNat)
  | .rsEncode =>
    match codewordOperand s with
    | .error e => .error e
    | .ok d =>
      match capRow s.version.toNat (levelOf s.level) with
      | none => .error .notFound
      | some r => if r.blocks ≠ 1 then .error .notImplemented else .ok (·.writeEcbuf (divide d r.ec))
  | .assemble =>
    match codewordOperand s with
    | .error e => .error e
    | .ok d => (ecOperand s).map fun c u => u.writeFinal (d ++ c)
  | .placeMatrix =>
    match finalOperand s with
    | .error e => .error e
    | .ok f =>
      if s.version.toNat = 0 ∨ Config.maxMatrixVersion < s.version.toNat then .error .outOfRange
      else if (placementOrder (sideOf s.version.toNat)).length < (bitsOfBytes f).length then
        .error .outOfRange
      else .ok (·.writeMatrix s.version.toNat (bitsOfBytes f))
  | .encode =>
    match versionOperand s with
    | .error e => .error e
    | .ok (t, v) =>
      if singleBlock v (levelOf s.level) then
        .ok fun u => (u.select t v).writeStages v (padded t v (levelOf s.level))
          (divide (packBits (padded t v (levelOf s.level))) (ecCount v (levelOf s.level)))
      else .error .notImplemented
  | .softReset => .ok State.clearRegs

/-- A command completes with its rule's writes made to the state whose operands it read. -/
theorem exec_eq_complete_rule (i : Instr) (s : State) :
    exec i s = complete s ((commandRule i s).map fun f => f s) := by
  cases i with
  | nop | gfExp | gfMula | gfXor | gfMul | softReset => rfl
  | selectMode | buildBitstream =>
    refine congrArg (complete s) ?_
    dsimp only [commandRule]
    cases textOperand s <;> rfl
  | selectVersion | buildPadded =>
    refine congrArg (complete s) ?_
    dsimp only [commandRule, versionOperand]
    cases textOperand s with
    | error e => rfl
    | ok t =>
      dsimp only
      cases smallestVersion t (levelOf s.level) <;> rfl
  | capLookup =>
    refine congrArg (complete s) ?_
    dsimp only [commandRule]
    cases capRow s.version.toNat (levelOf s.level) <;> cases modeOf s.mode <;> rfl
  | modeInd =>
    refine congrArg (complete s) ?_
    dsimp only [commandRule]
    cases modeOf s.mode with
    | none => rfl
    | some m => cases m <;> rfl
  | countInd =>
    refine congrArg (complete s) ?_
    dsimp only [commandRule]
    cases modeOf s.mode with
    | none => split_ifs <;> rfl
    | some m =>
      dsimp only
      cases countWidth s.version.toNat m <;> dsimp only <;> split_ifs <;> rfl
  | gfLog =>
    refine congrArg (complete s) ?_
    dsimp only [commandRule]
    cases logRom s.gfA <;> rfl
  | genPoly =>
    refine congrArg (complete s) ?_
    dsimp only [commandRule]
    split_ifs <;> rfl
  | rsEncode =>
    refine congrArg (complete s) ?_
    dsimp only [commandRule]
    cases codewordOperand s with
    | error e => rfl
    | ok d =>
      dsimp only
      cases capRow s.version.toNat (levelOf s.level) with
      | none => rfl
      | some r => dsimp only; split_ifs <;> rfl
  | assemble =>
    refine congrArg (complete s) ?_
    dsimp only [commandRule]
    cases codewordOperand s with
    | error e => rfl
    | ok d => dsimp only; cases ecOperand s <;> rfl
  | placeMatrix =>
    refine congrArg (complete s) ?_
    dsimp only [commandRule]
    cases finalOperand s with
    | error e => rfl
    | ok f => dsimp only; split_ifs <;> rfl
  | encode =>
    refine congrArg (complete s) ?_
    dsimp only [commandRule, versionOperand]
    cases textOperand s with
    | error e => rfl
    | ok t =>
      dsimp only
      cases smallestVersion t (levelOf s.level) with
      | none => rfl
      | some v => dsimp only; split_ifs <;> rfl

/-! ## The effect of a command -/

/-- The writes a command can make: one form for each command, with the bounds its results meet. -/
inductive Effect : Instr → (State → State) → Prop
  | nop : Effect .nop id
  | selectMode (m : BitVec 4) : Effect .selectMode fun s => { s with mode := m }
  | selectVersion (t : List Byte) (v : Nat) : Effect .selectVersion (·.select t v)
  | capLookup {v : Nat} {l : Level} {r : CapRow} (hrow : capRow v l = some r) (m : Mode) :
      Effect .capLookup (·.withCapacity r m)
  | indicator {i : Instr} (hi : i ∈ [.modeInd, .countInd]) {x : BitVec 16} {w : BitVec 5}
      (hx : x.toNat < 2 ^ w.toNat) : Effect i fun s => { s with fieldVal := x, fieldW := w }
  | buildBitstream (m : BitVec 4) {bits : Bits} (hbits : bits.length ≤ 2048) :
      Effect .buildBitstream fun s => { s with mode := m }.writeBitbuf bits
  | buildPadded (t : List Byte) (v : Nat) {bits : Bits} (hbits : bits.length ≤ 2048) :
      Effect .buildPadded fun s => (s.select t v).writeBitbuf bits
  | gf {i : Instr} (hi : i ∈ [.gfLog, .gfExp, .gfMula, .gfXor, .gfMul]) (b : Byte) :
      Effect i fun s => { s with gfR := b }
  | genPoly {e : Nat} (h1 : 1 ≤ e) (h32 : e ≤ 32) : Effect .genPoly (·.writeGenbuf e)
  | rsEncode {c : List Byte} (hc : c.length ≤ 32) : Effect .rsEncode (·.writeEcbuf c)
  | assemble {f : List Byte} (hf : f.length ≤ 512) : Effect .assemble (·.writeFinal f)
  | placeMatrix {v : Nat} (h1 : 1 ≤ v) (h4 : v ≤ 4) (bits : Bits) :
      Effect .placeMatrix (·.writeMatrix v bits)
  | encode (t : List Byte) {v : Nat} (h1 : 1 ≤ v) (h4 : v ≤ 4) {bits : Bits} {c : List Byte}
      (hbits : bits.length ≤ 2048) (hc : c.length ≤ 32) :
      Effect .encode fun s => (s.select t v).writeStages v bits c
  | softReset : Effect .softReset State.clearRegs

theorem textOperand_length {s : State} {t : List Byte} (h : textOperand s = .ok t) :
    t.length ≤ 256 := by
  by_cases hlen : s.textLen.toNat ≤ 256
  · rw [textOperand_ok hlen] at h
    cases h
    rwa [State.readBytes_length]
  · rw [textOperand_error (by omega)] at h
    cases h

theorem codewordOperand_length {s : State} {d : List Byte} (h : codewordOperand s = .ok d) :
    d.length ≤ 256 := by
  by_cases hlen : s.bitLen.toNat ≤ 2048 ∧ s.bitLen.toNat % 8 = 0
  · rw [codewordOperand_ok hlen.1 hlen.2] at h
    cases h
    rw [State.readBytes_length]
    omega
  · rw [codewordOperand_error (by omega)] at h
    cases h

theorem ecOperand_length {s : State} {c : List Byte} (h : ecOperand s = .ok c) :
    c.length ≤ 32 := by
  by_cases hlen : s.ecLen.toNat ≤ 32
  · rw [ecOperand_ok hlen] at h
    cases h
    rwa [State.readBytes_length]
  · rw [ecOperand_error (by omega)] at h
    cases h

theorem versionOperand_spec {s : State} {t : List Byte} {v : Nat}
    (h : versionOperand s = .ok (t, v)) : smallestVersion t (levelOf s.level) = some v := by
  unfold versionOperand at h
  split at h
  · cases h
  · split at h
    · cases h
    · next hv =>
      cases h
      exact hv

theorem padded_length_le {t : List Byte} {l : Level} {v : Nat} (h : smallestVersion t l = some v) :
    (padded t v l).length ≤ 2048 :=
  (padded_length h).trans_le (capBits_le h)

theorem dataBits_length_le_bitbuf {t : List Byte} (h : t.length ≤ 256) :
    (dataBits t).length ≤ 2048 := by
  have hdata := dataBits_length_le t
  have hbound := dataBound_le (selectMode t) t.length
  omega

theorem ecCount_le {v : Nat} {l : Level} (h : singleBlock v l = true) : ecCount v l ≤ 32 := by
  unfold singleBlock at h
  unfold ecCount
  split at h
  · next r hrow =>
    exact capRow_ec_le hrow (beq_iff_eq.mp h)
  · cases h

/-- A length that COUNT_IND accepts fits the width it writes. -/
theorem countField_fits {v w : Nat} {m : Mode} {n : BitVec 9} (hw : countWidth v m = some w)
    (hn : n.toNat < 2 ^ w) : (n.setWidth 16).toNat < 2 ^ (BitVec.ofNat 5 w).toNat := by
  have hrange : ¬(v = 0 ∨ 40 < v ∨ m = .kanji) := fun h => by
    rw [countWidth_eq_none h] at hw
    cases hw
  rw [countWidth_eq_some (by omega) (by omega) (by tauto)] at hw
  obtain ⟨-, h16⟩ := widthRule_range v (modeCode m).toNat
  have hwidth := Option.some.inj hw
  rw [toNat_ofNat_of_lt (show w < 2 ^ 5 by omega), BitVec.toNat_setWidth_of_le (by decide)]
  exact hn

theorem exists_of_map_eq_ok {α β : Type} {x : Except ErrCode α} {g : α → β} {b : β}
    (h : x.map g = .ok b) : ∃ a, x = .ok a ∧ g a = b := by
  cases x with
  | error e => cases h
  | ok a => exact ⟨a, rfl, Except.ok.inj h⟩

/-- Every success of a rule is one of the effects. -/
theorem effect_of_commandRule {i : Instr} {s : State} {f : State → State}
    (h : commandRule i s = .ok f) : Effect i f := by
  cases i with dsimp only [commandRule] at h
  | nop =>
    cases h
    exact .nop
  | softReset =>
    cases h
    exact .softReset
  | gfExp | gfMula | gfXor | gfMul =>
    cases h
    exact .gf (by decide) _
  | gfLog =>
    split at h
    · cases h
      exact .gf (by decide) _
    · cases h
  | selectMode =>
    obtain ⟨t, -, rfl⟩ := exists_of_map_eq_ok h
    exact .selectMode _
  | selectVersion =>
    obtain ⟨⟨t, v⟩, -, rfl⟩ := exists_of_map_eq_ok h
    exact .selectVersion t v
  | buildBitstream =>
    obtain ⟨t, ht, rfl⟩ := exists_of_map_eq_ok h
    exact .buildBitstream _ (dataBits_length_le_bitbuf (textOperand_length ht))
  | buildPadded =>
    obtain ⟨⟨t, v⟩, hv, rfl⟩ := exists_of_map_eq_ok h
    exact .buildPadded t v (padded_length_le (versionOperand_spec hv))
  | capLookup =>
    split at h
    · next r m hrow hm =>
      cases h
      exact .capLookup hrow m
    · cases h
  | modeInd =>
    split at h
    · cases h
    · next m hkanji _ =>
      cases h
      refine .indicator (by decide) ?_
      cases m with
      | kanji => exact absurd rfl hkanji
      | _ => decide
    · cases h
  | countInd =>
    split at h
    · cases h
    split at h
    · cases h
    split at h
    · cases h
    · next hw =>
      split at h
      · cases h
      · next hn =>
        cases h
        exact .indicator (by decide) (countField_fits hw (Nat.not_le.mp hn))
  | genPoly =>
    split at h
    · cases h
    · next he =>
      cases h
      rw [Config.genMaxDeg] at he
      exact .genPoly (by omega) (by omega)
  | rsEncode =>
    split at h
    · cases h
    split at h
    · cases h
    · next r hrow =>
      split at h
      · cases h
      · next hb =>
        cases h
        refine .rsEncode ?_
        rw [divide_length]
        exact capRow_ec_le hrow (not_not.mp hb)
  | assemble =>
    split at h
    · cases h
    · next d hd =>
      obtain ⟨c, hc, rfl⟩ := exists_of_map_eq_ok h
      have := codewordOperand_length hd
      have := ecOperand_length hc
      exact .assemble (by rw [List.length_append]; omega)
  | placeMatrix =>
    split at h
    · cases h
    split at h
    · cases h
    · next hv =>
      split at h
      · cases h
      · cases h
        rw [Config.maxMatrixVersion] at hv
        exact .placeMatrix (by omega) (by omega) _
  | encode =>
    split at h
    · cases h
    · next t v hv =>
      split at h
      · next hblock =>
        cases h
        have hsmallest := versionOperand_spec hv
        obtain ⟨h1, h4⟩ := smallestVersion_range hsmallest
        refine .encode t h1 h4 (padded_length_le hsmallest) ?_
        rw [divide_length]
        exact ecCount_le hblock
      · cases h

/-- Everything a command can do: an error of its rule, or one of its effects and a completion. -/
theorem exec_cases {i : Instr} {s t : State} (h : exec i s = .next t) :
    (∃ e, commandRule i s = .error e ∧ t = s.finish (some e)) ∨
    (∃ f, commandRule i s = .ok f ∧ Effect i f ∧ t = (f s).finish none) := by
  rw [exec_eq_complete_rule] at h
  cases hrule : commandRule i s with rw [hrule] at h
  | error e => exact .inl ⟨e, rfl, (Host.Outcome.next.inj h).symm⟩
  | ok f => exact .inr ⟨f, rfl, effect_of_commandRule hrule, (Host.Outcome.next.inj h).symm⟩

/-- Two runs of one rule fail with one error, or have one effect. -/
theorem exec_cases_of_rule_eq {i : Instr} {s u t v : State} (h : commandRule i s = commandRule i u)
    (ht : exec i s = .next t) (hv : exec i u = .next v) :
    (∃ e, t = s.finish (some e) ∧ v = u.finish (some e)) ∨
    (∃ f, Effect i f ∧ t = (f s).finish none ∧ v = (f u).finish none) := by
  rcases exec_cases ht with ⟨e, hs, rfl⟩ | ⟨f, hs, heffect, rfl⟩ <;>
    rcases exec_cases hv with ⟨e', hu, rfl⟩ | ⟨f', hu, -, rfl⟩ <;> rw [hs, hu] at h <;> cases h
  · exact .inl ⟨e, rfl, rfl⟩
  · exact .inr ⟨f, heffect, rfl, rfl⟩

end Sys2Proof.Machine
end

section
/-! SUPPORT. Proofs about the operand table of 30_encoding.md section 2: a command writes only what is
listed for it, and what it writes depends only on the operands listed for it. -/

namespace Sys2Proof.Machine

/-! ## What an effect leaves unchanged -/

theorem RegsKept.mono {s t : State} {ws ws' : List Reg} (h : RegsKept s t ws)
    (hsub : ws ⊆ ws') : RegsKept s t ws' :=
  fun r hstatus hr => h r hstatus fun hmem => hr (hsub hmem)

theorem regsKept_gfR (s : State) (b : Byte) : RegsKept s { s with gfR := b } [.gfR] := by
  intro r _ hr
  cases r with
  | gfR => simp at hr
  | _ => rfl

theorem regsKept_clearRegs (s : State) : RegsKept s s.clearRegs (writtenRegs .softReset) := by
  intro r hstatus hr
  cases r with
  | id | cmd => rfl
  | status => exact absurd rfl hstatus
  | _ => simp [writtenRegs] at hr

theorem Effect.regsKept {i : Instr} {f : State → State} (h : Effect i f) (s : State) :
    RegsKept s (f s) (writtenRegs i) := by
  cases h with
  | nop => exact fun _ _ _ => rfl
  | selectMode m => exact regsKept_mode s m
  | selectVersion t v => exact regsKept_mode_version s _ _
  | capLookup _ m => exact (regsKept_withCapacity s _ m).mono (by decide)
  | indicator hi _ =>
    simp only [List.mem_cons, List.not_mem_nil, or_false] at hi
    rcases hi with rfl | rfl <;> exact regsKept_field s _ _
  | buildBitstream m _ => exact State.writeBitbuf_regsKept (regsKept_mode s m) _
  | buildPadded t v _ => exact State.writeBitbuf_regsKept (regsKept_mode_version s _ _) _
  | gf hi b =>
    simp only [List.mem_cons, List.not_mem_nil, or_false] at hi
    rcases hi with rfl | rfl | rfl | rfl | rfl <;> exact regsKept_gfR s b
  | genPoly _ _ => exact s.writeGenbuf_regsKept _
  | rsEncode _ => exact s.writeEcbuf_regsKept _
  | assemble _ => exact s.writeFinal_regsKept _
  | placeMatrix _ _ bits => exact s.writeMatrix_regsKept _ bits
  | encode t _ _ _ _ => exact State.writeStages_regsKept (regsKept_mode_version s _ _) _ _ _
  | softReset => exact regsKept_clearRegs s

theorem Effect.envKept {i : Instr} {f : State → State} (h : Effect i f) (s : State) :
    EnvKept s (f s) := by
  cases h with
  | encode t _ _ _ _ =>
    exact State.writeStages_envKept (u := s.select t _) ⟨rfl, rfl, rfl, rfl, rfl⟩ _ _ _
  | _ => exact ⟨rfl, rfl, rfl, rfl, rfl⟩

theorem Effect.haz {i : Instr} {f : State → State} (h : Effect i f) (hi : i ≠ .softReset)
    (s : State) : (f s).haz = s.haz := by
  cases h with
  | softReset => exact absurd rfl hi
  | encode t _ _ _ _ => exact (s.select t _).writeStages_haz _ _ _
  | _ => rfl

/-- A byte outside a window lies outside any run of bytes inside it. -/
theorem not_mem_of_not_covers {w : Window} {a b n : Nat} (h : w.covers a = false)
    (hlo : w.base ≤ b) (hhi : b + n ≤ w.base + w.size) : ¬(b ≤ a ∧ a < b + n) := by
  rw [Bool.eq_false_iff, ne_eq, Window.covers_iff] at h
  omega

/-- An effect changes no byte outside the buffers listed for its command. -/
theorem Effect.readByte {i : Instr} {f : State → State} (h : Effect i f) (s : State) {a : Nat}
    (ha : ∀ w ∈ writtenBuffers i, w.covers a = false) : (f s).readByte a = s.readByte a := by
  cases h with
  | buildBitstream m hbits | buildPadded t v hbits =>
    exact State.writeBitbuf_bytesKept _ _ a (not_mem_of_not_covers (ha bitbufWindow (by decide))
      le_rfl (show 0x200 + _ ≤ 0x200 + 256 by omega))
  | genPoly h1 h32 =>
    exact s.readByte_storeBytes_of_not_mem (not_mem_of_not_covers (ha genbufWindow (by decide))
      le_rfl (by rw [genbufImage_length h32]; rfl))
  | rsEncode hc =>
    exact State.writeEcbuf_bytesKept _ _ a (not_mem_of_not_covers (ha ecbufWindow (by decide))
      le_rfl (show 0x300 + _ ≤ 0x300 + 32 by omega))
  | assemble hf =>
    exact State.writeFinal_bytesKept _ _ a (not_mem_of_not_covers (ha finalWindow (by decide))
      le_rfl (show 0x400 + _ ≤ 0x400 + 512 by omega))
  | placeMatrix h1 h4 bits =>
    exact State.writeMatrix_bytesKept _ _ _ a (not_mem_of_not_covers (ha matrixWindow (by decide))
      le_rfl le_rfl)
  | @encode t v h1 h4 bits c hbits hc =>
    have hdata : (packBits bits).length ≤ 256 := (packBits_length bits).trans_le (by omega)
    refine (s.select t v).readByte_writeStages v bits c
      (not_mem_of_not_covers (ha bitbufWindow (by decide)) le_rfl (Nat.add_le_add_left hdata _))
      (not_mem_of_not_covers (ha ecbufWindow (by decide)) le_rfl (Nat.add_le_add_left hc _))
      (not_mem_of_not_covers (ha finalWindow (by decide)) le_rfl (Nat.add_le_add_left ?_ _))
      (not_mem_of_not_covers (ha matrixWindow (by decide)) (n := 264) le_rfl le_rfl)
    rw [List.length_append]
    exact (Nat.add_le_add hdata hc).trans (by decide)
  | _ => rfl

/-- Settles O11: an error leaves STATUS alone changed, and each effect writes what is listed. -/
theorem commandWritesOnlyItsResults : Obligations.CommandWritesOnlyItsResults := by
  intro i s t h
  rcases exec_cases h with ⟨e, -, rfl⟩ | ⟨f, -, heffect, rfl⟩
  · exact ⟨fun _ hr _ => s.readReg_finish _ hr, ⟨rfl, rfl, rfl, rfl, rfl⟩, fun _ => rfl,
      fun _ _ => rfl⟩
  · have hregs := State.finish_regsKept (heffect.regsKept s)
    have henv : EnvKept s ((f s).finish none) := heffect.envKept s
    refine ⟨hregs, henv, fun hi => ?_, fun a ha => ?_⟩
    · rw [State.finish_haz, heffect.haz hi]
    · rw [State.readByte_finish, heffect.readByte s ha]

/-! ## What an effect writes -/

/-- Two runs leave the same byte at every address, except where both leave it as it was. -/
abbrev SameBytes (s u s' u' : State) : Prop :=
  ∀ a, s'.readByte a = u'.readByte a ∨
    (s'.readByte a = s.readByte a ∧ u'.readByte a = u.readByte a)

theorem SameBytes.trans {s u s₁ u₁ s₂ u₂ : State} (h : SameBytes s u s₁ u₁)
    (h' : SameBytes s₁ u₁ s₂ u₂) : SameBytes s u s₂ u₂ := by
  intro a
  rcases h' a with heq | ⟨hs, hu⟩
  · exact .inl heq
  · rw [hs, hu]
    exact h a

theorem sameBytes_storeBytes (s u : State) (a : Nat) (bs : List Byte) :
    SameBytes s u (s.storeBytes a bs) (u.storeBytes a bs) := by
  intro k
  rw [State.readByte_storeBytes, State.readByte_storeBytes]
  split_ifs
  · exact .inl rfl
  · exact .inr ⟨rfl, rfl⟩

theorem sameBytes_writeBitbuf (s u : State) (bits : Bits) :
    SameBytes s u (s.writeBitbuf bits) (u.writeBitbuf bits) :=
  sameBytes_storeBytes s u _ _

theorem sameBytes_writeEcbuf (s u : State) (c : List Byte) :
    SameBytes s u (s.writeEcbuf c) (u.writeEcbuf c) :=
  sameBytes_storeBytes s u _ _

theorem sameBytes_writeFinal (s u : State) (f : List Byte) :
    SameBytes s u (s.writeFinal f) (u.writeFinal f) :=
  sameBytes_storeBytes s u _ _

theorem sameBytes_writeMatrix (s u : State) (v : Nat) (bits : Bits) :
    SameBytes s u (s.writeMatrix v bits) (u.writeMatrix v bits) :=
  sameBytes_storeBytes s u _ _

theorem sameBytes_writeStages (s u : State) (v : Nat) (bits : Bits) (c : List Byte) :
    SameBytes s u (s.writeStages v bits c) (u.writeStages v bits c) :=
  (((sameBytes_writeBitbuf s u bits).trans (sameBytes_writeEcbuf _ _ c)).trans
    (sameBytes_writeFinal _ _ _)).trans (sameBytes_writeMatrix _ _ v _)

/-- An effect writes the same bytes to any two states. -/
theorem Effect.sameBytes {i : Instr} {f : State → State} (h : Effect i f) (s u : State) :
    SameBytes s u (f s) (f u) := by
  cases h with
  | buildBitstream m _ | buildPadded t v _ => exact sameBytes_writeBitbuf _ _ _
  | genPoly _ _ => exact sameBytes_storeBytes s u _ _
  | rsEncode _ => exact sameBytes_writeEcbuf s u _
  | assemble _ => exact sameBytes_writeFinal s u _
  | placeMatrix _ _ bits => exact sameBytes_writeMatrix s u _ bits
  | encode t _ _ _ _ => exact sameBytes_writeStages (s.select t _) (u.select t _) _ _ _
  | _ => exact fun _ => .inr ⟨rfl, rfl⟩

/-- An effect writes the same values to the result registers of any two states. -/
theorem Effect.sameRegs {i : Instr} {f : State → State} (h : Effect i f) (s u : State) :
    ∀ r ∈ writtenRegs i, (f s).readReg r = (f u).readReg r := by
  intro r hr
  cases h with
  | softReset =>
    have hid : r ≠ .id := by
      rintro rfl
      simp [writtenRegs] at hr
    rw [State.readReg_clearRegs s hid, State.readReg_clearRegs u hid]
  | indicator hi _ =>
    simp only [List.mem_cons, List.not_mem_nil, or_false] at hi
    rcases hi with rfl | rfl <;> fin_cases hr <;> rfl
  | gf hi b =>
    simp only [List.mem_cons, List.not_mem_nil, or_false] at hi
    rcases hi with rfl | rfl | rfl | rfl | rfl <;> fin_cases hr <;> rfl
  | _ => fin_cases hr <;> rfl

/-! ## The operands of a rule -/

theorem setWidth_inj {n : Nat} {x y : BitVec n} (hn : n ≤ 32)
    (h : (x.setWidth 32 : Word) = y.setWidth 32) : x = y := by
  apply BitVec.eq_of_toNat_eq
  rw [← BitVec.toNat_setWidth_of_le hn, h, BitVec.toNat_setWidth_of_le hn]

theorem readBytes_eq_of_agree {s u : State} {a n : Nat}
    (h : ∀ k < n, s.readByte (a + k) = u.readByte (a + k)) : s.readBytes a n = u.readBytes a n :=
  List.map_congr_left fun k hk => h k (List.mem_range.mp hk)

theorem textOperand_congr {s u : State} (hlen : s.textLen = u.textLen)
    (hbytes : ∀ k < s.textLen.toNat,
      s.readByte (textWindow.base + k) = u.readByte (textWindow.base + k)) :
    textOperand s = textOperand u := by
  rw [textOperand, textOperand, readBytes_eq_of_agree hbytes, hlen]

theorem versionOperand_congr {s u : State} (htext : textOperand s = textOperand u)
    (hlevel : s.level = u.level) : versionOperand s = versionOperand u := by
  rw [versionOperand, versionOperand, htext, hlevel]

theorem codewordOperand_congr {s u : State} (hlen : s.bitLen = u.bitLen)
    (hbytes : ∀ k < s.bitLen.toNat / 8,
      s.readByte (bitbufWindow.base + k) = u.readByte (bitbufWindow.base + k)) :
    codewordOperand s = codewordOperand u := by
  rw [codewordOperand, codewordOperand, readBytes_eq_of_agree hbytes, hlen]

theorem ecOperand_congr {s u : State} (hlen : s.ecLen = u.ecLen)
    (hbytes : ∀ k < s.ecLen.toNat,
      s.readByte (ecbufWindow.base + k) = u.readByte (ecbufWindow.base + k)) :
    ecOperand s = ecOperand u := by
  rw [ecOperand, ecOperand, readBytes_eq_of_agree hbytes, hlen]

theorem finalOperand_congr {s u : State} (hlen : s.finalLen = u.finalLen)
    (hbytes : ∀ k < s.finalLen.toNat,
      s.readByte (finalWindow.base + k) = u.readByte (finalWindow.base + k)) :
    finalOperand s = finalOperand u := by
  rw [finalOperand, finalOperand, readBytes_eq_of_agree hbytes, hlen]

/-- A rule depends only on the operands listed for its command (30_encoding.md R84). -/
theorem commandRule_congr {i : Instr} {s u : State} (h : SameOperands i s u) :
    commandRule i s = commandRule i u := by
  obtain ⟨hregs, hbytes⟩ := h
  cases i with
    simp only [readRegs, readRanges, List.cons_append, List.nil_append, List.forall_mem_cons,
      List.not_mem_nil, false_implies, implies_true, and_true, State.readReg] at hregs hbytes
  | nop | softReset => rfl
  | gfLog | gfExp => simp only [commandRule, setWidth_inj (by decide) hregs]
  | gfMula | gfXor | gfMul =>
    obtain ⟨ha, hb⟩ := hregs
    simp only [commandRule, setWidth_inj (by decide) ha, setWidth_inj (by decide) hb]
  | genPoly | modeInd => simp only [commandRule, setWidth_inj (by decide) hregs]
  | capLookup | countInd =>
    obtain ⟨h1, h2, h3⟩ := hregs
    simp only [commandRule, setWidth_inj (by decide) h1, setWidth_inj (by decide) h2,
      setWidth_inj (by decide) h3]
  | selectMode | buildBitstream =>
    simp only [commandRule, textOperand_congr (setWidth_inj (by decide) hregs) hbytes]
  | selectVersion | buildPadded | encode =>
    obtain ⟨hlen, hlevel⟩ := hregs
    have hlevel := setWidth_inj (by decide) hlevel
    have htext := textOperand_congr (setWidth_inj (by decide) hlen) hbytes
    simp only [commandRule, versionOperand_congr htext hlevel, hlevel]
  | rsEncode =>
    obtain ⟨hlen, hversion, hlevel⟩ := hregs
    simp only [commandRule, codewordOperand_congr (setWidth_inj (by decide) hlen) hbytes,
      setWidth_inj (by decide) hversion, setWidth_inj (by decide) hlevel]
  | assemble =>
    obtain ⟨hbits, hec⟩ := hregs
    obtain ⟨hdata, hcodewords⟩ := hbytes
    simp only [commandRule, codewordOperand_congr (setWidth_inj (by decide) hbits) hdata,
      ecOperand_congr (setWidth_inj (by decide) hec) hcodewords]
  | placeMatrix =>
    obtain ⟨hlen, hversion⟩ := hregs
    simp only [commandRule, finalOperand_congr (setWidth_inj (by decide) hlen) hbytes,
      setWidth_inj (by decide) hversion]

/-- STATUS is no result register: every completion writes it. -/
theorem status_not_mem_writtenRegs (i : Instr) : Reg.status ∉ writtenRegs i := by
  cases i <;> decide

/-- Settles O12: both runs follow one rule, so they fail alike or have one effect. -/
theorem outcomeDependsOnlyOnOperands : Obligations.OutcomeDependsOnlyOnOperands := by
  intro i s u t v hsame ht hv
  rcases exec_cases_of_rule_eq (commandRule_congr hsame) ht hv with
    ⟨e, rfl, rfl⟩ | ⟨f, heffect, rfl, rfl⟩
  · exact ⟨rfl, rfl, fun h => by simp at h⟩
  · refine ⟨rfl, rfl, fun _ => ⟨fun r hr => ?_, fun a => ?_⟩⟩
    · have hstatus : r ≠ .status := fun h => status_not_mem_writtenRegs i (h ▸ hr)
      rw [State.readReg_finish _ _ hstatus, State.readReg_finish _ _ hstatus,
        heffect.sameRegs s u r hr]
    · exact heffect.sameBytes s u a

end Sys2Proof.Machine
end

section
/-! SUPPORT. Proofs about the two agents (60_exceptions.md section 2): which of them moves, the life of a
command from its acceptance to its completion, and what the host's accesses in between do to it. -/

namespace Sys2Proof.Machine

/-! ## Which agent moves (60_exceptions.md R264, R266; log 1) -/

/-- No coming event is marked for the BUSY window. -/
abbrev NoWindowEvent (s : State) : Prop := ∀ e rest, s.inputs = e :: rest → e.inWindow = false

theorem State.turn_engine {s : State} {w : Word} (hp : s.pending = some w) (hr : s.resetIn = false)
    (hin : NoWindowEvent s) : s.turn = .engine w := by
  cases hi : s.inputs with
  | nil => simp [State.turn, hp, hr, hi]
  | cons e rest => simp [State.turn, hp, hr, hi, hin e rest hi]

theorem State.turn_host {s : State} {e : BusEvent} {rest : List BusEvent} (hi : s.inputs = e :: rest)
    (h : s.pending = none ∨ s.resetIn = true ∨ e.inWindow = true) : s.turn = .host e.op rest := by
  rcases h with h | h | h
  · simp [State.turn, hi, h]
  · simp [State.turn, hi, h]
  · cases hr : s.resetIn <;> cases hp : s.pending <;> simp [State.turn, hi, h, hr, hp]

theorem State.turn_idle {s : State} (hi : s.inputs = [])
    (h : s.pending = none ∨ s.resetIn = true) : s.turn = .idle := by
  rcases h with h | h <;> simp [State.turn, hi, h]

theorem step_of_engine {s : State} {w : Word} (h : s.turn = .engine w) :
    step s = engineStep s w := by
  rw [step, agentStep, h]

theorem step_of_host {s : State} {op : BusOp} {rest : List BusEvent} (h : s.turn = .host op rest) :
    step s = .next (busStep { s with inputs := rest } op) := by
  rw [step, agentStep, h]

theorem step_of_idle {s : State} (h : s.turn = .idle) : step s = .next s := by
  rw [step, agentStep, h]

theorem engineStep_of_command {w : Word} {i : Instr} (h : decode w = .command i) (s : State) :
    engineStep s w = exec i s := by
  rw [engineStep, h]

/-- A word placed by `withFetchWord` is accepted and the Engine moves next (log 2). -/
theorem State.turn_withFetchWord (s : State) (w : Word) :
    (s.withFetchWord 32 w.toNat).turn = .engine w := by
  refine State.turn_engine ?_ rfl fun e rest h => ?_
  · rw [State.withFetchWord, Nat.mod_eq_of_lt w.isLt, BitVec.ofNat_toNat, BitVec.setWidth_eq]
    rfl
  · have he : e ∈ s.inputs.map fun e => { e with inWindow := false } := by
      rw [show s.inputs.map _ = e :: rest from h]
      exact List.mem_cons_self
    obtain ⟨_, -, rfl⟩ := List.mem_map.mp he
    rfl

/-- Settles O4: with no event marked for the window the Engine moves, and it runs the word. -/
theorem stepRunsTheAcceptedCommand : Obligations.StepRunsTheAcceptedCommand := by
  refine ⟨fun s w hp hr hin => ?word, fun s w i hp hdec hr hin => ?command, fun s i => ?placed,
    fun s w => step_of_engine (s.turn_withFetchWord w)⟩
  case word =>
    have hstep := step_of_engine (State.turn_engine hp hr hin)
    exact ⟨hstep, fun why hdec => hstep.trans (engineStep_of_illegal hdec s)⟩
  case command => rw [step_of_engine (State.turn_engine hp hr hin), engineStep_of_command hdec]
  case placed =>
    rw [step_of_engine (s.turn_withFetchWord (encode i)), engineStep_of_command (decode_encode i)]

/-- Settles O5: where the Engine is not enabled, or an event is marked for the window, the host moves
if it has an event. -/
theorem stepServesTheHost : Obligations.StepServesTheHost :=
  ⟨fun _ _ _ hi h => step_of_host (State.turn_host hi h),
    fun _ hi h => step_of_idle (State.turn_idle hi h)⟩

/-! ## The life of a command (60_exceptions.md R264) -/

/-- DONE, ERR and ERRCODE at a completion: ERR says whether there is a code. -/
theorem complete_outcome {s t : State} {r : Except ErrCode State} (h : complete s r = .next t) :
    t.pending = none ∧ t.done = true ∧ t.err = (t.errCode != 0) := by
  rcases complete_cases h with ⟨u, -, rfl⟩ | ⟨e, -, rfl⟩
  · exact ⟨rfl, rfl, rfl⟩
  · exact ⟨rfl, rfl, by cases e <;> rfl⟩

theorem engineStep_answers (s : State) (w : Word) : ∃ t, engineStep s w = .next t := by
  obtain ⟨r, hr⟩ := engineStep_is_complete s w
  exact hr ▸ complete_answers s r

theorem engineStep_envKept {s t : State} {w : Word} (h : engineStep s w = .next t) :
    EnvKept s t := by
  rcases engineStep_cases h with ⟨i, -, hexec⟩ | ⟨why, -, rfl⟩
  · obtain ⟨-, henv, -⟩ := commandWritesOnlyItsResults i s t hexec
    exact henv
  · exact ⟨rfl, rfl, rfl, rfl, rfl⟩

/-- The Engine keeps HAZ but for the word of SOFT_RESET (70_reset_and_hazards.md R301). -/
theorem engineStep_haz {s t : State} {w : Word} (h : engineStep s w = .next t) :
    t.haz = (s.haz && decode w != .command .softReset) := by
  rcases engineStep_cases h with ⟨i, hdec, hexec⟩ | ⟨why, hdec, rfl⟩
  · rw [exec_haz hexec, hdec]
    by_cases hi : i = .softReset <;> simp [hi]
  · rw [State.finish_haz, hdec]
    exact (Bool.and_true _).symm

/-- Settles O6: acceptance is the write to CMD, and each clause of the completion holds of every
completion. -/
theorem lifeOfACommand : Obligations.LifeOfACommand := by
  refine ⟨fun s a w ha ⟨hp, hr⟩ => ⟨busWrite_cmd hp hr ha w, ?read⟩,
    fun s a w _ ⟨hb, hr⟩ => busWrite_of_busy hb hr a w, fun s w => ?completion,
    fun s w i hdec => engineStep_of_command hdec s, fun s w hturn => ?engine,
    fun s w hp hr hin => State.turn_engine hp hr hin⟩
  case read =>
    rw [busRead_of_reg hp hr (r := .cmd) (by rw [ha]; rfl)]
    rfl
  case completion =>
    obtain ⟨t, ht⟩ := engineStep_answers s w
    obtain ⟨r, hr⟩ := engineStep_is_complete s w
    have hcomplete := hr ▸ ht
    obtain ⟨hpending, hdone, herr⟩ := complete_outcome hcomplete
    refine ⟨t, ht, hpending, hdone, herr, engineStep_envKept ht, engineStep_haz ht, fun hfail => ?_⟩
    obtain ⟨e, rfl⟩ := complete_of_err hcomplete hfail
    rfl
  case engine =>
    rcases s.turn_cases with ⟨v, hv, hp, -⟩ | ⟨e, rest, hh, -⟩ | ⟨hidle, -⟩
    · rw [hturn] at hv
      cases hv
      exact hp
    · simp [hturn] at hh
    · simp [hturn] at hidle

/-! ## A command ends (70_reset_and_hazards.md section 4) -/

theorem run_succ_of_step (M : Host.Core) {s t : M.State} (h : M.step s = .next t) (k : Nat) :
    M.run (k + 1) s = M.run k t := by
  rw [Host.Core.run, h]

/-- No access of the host asserts reset or takes away the pending command. -/
theorem busStep_of_busy {s : State} (hb : Busy s) {op : BusOp} (hop : ∀ b, op ≠ .resetPin b) :
    ∃ h r d, busStep s op = { s with haz := h, replies := r, draws := d } := by
  cases op with
  | resetPin b => exact absurd rfl (hop b)
  | write a v => exact ⟨true, s.replies, s.draws, busWrite_of_busy hb.1 hb.2 a v⟩
  | read a =>
    rcases busRead_cases s a with ⟨v, hv⟩ | hv
    · exact ⟨s.haz, s.replies ++ [v], s.draws, hv⟩
    · exact ⟨s.haz, s.replies ++ [Config.unspecifiedRead s.draws], s.draws + 1, hv⟩

/-- With no event marked for the window the pending command completes in one step. -/
theorem ends_in_one_step {s : State} (hr : s.resetIn = false) (hp : s.pending.isSome = true)
    (hin : NoWindowEvent s) : ∃ t, core.run 1 s = .next t ∧ t.pending = none := by
  obtain ⟨w, hw⟩ := Option.isSome_iff_exists.mp hp
  obtain ⟨t, ht⟩ := engineStep_answers s w
  obtain ⟨r, hcomplete⟩ := engineStep_is_complete s w
  have hst : step s = .next t := (step_of_engine (State.turn_engine hw hr hin)).trans ht
  exact ⟨t, run_succ_of_step core hst 0, (complete_outcome (hcomplete ▸ ht)).1⟩

/-- Settles O7: by induction on the coming events, each of which is an access in the window, a reset
that discards the command, or left for after the completion. -/
theorem pendingCommandEndsInFiniteTime : Obligations.PendingCommandEndsInFiniteTime := by
  intro s hr hp
  induction hin : s.inputs generalizing s with
  | nil =>
    obtain ⟨t, ht⟩ := ends_in_one_step hr hp fun e rest h => by simp [hin] at h
    exact ⟨1, le_rfl, t, ht⟩
  | cons e rest ih =>
    have h1 : 1 ≤ (e :: rest).length + 1 := Nat.le_add_left _ _
    cases hw : e.inWindow with
    | false =>
      obtain ⟨t, ht⟩ := ends_in_one_step hr hp fun e' rest' h => by
        rw [hin] at h
        cases h
        exact hw
      exact ⟨1, h1, t, ht⟩
    | true =>
      have hst := step_of_host (State.turn_host hin (.inr (.inr hw)))
      by_cases hop : ∃ b, e.op = .resetPin b
      · obtain ⟨b, hb⟩ := hop
        rw [hb] at hst
        exact ⟨1, h1, _, run_succ_of_step core hst 0, rfl⟩
      · obtain ⟨h, r, d, hbus⟩ := busStep_of_busy (s := { s with inputs := rest }) ⟨hp, hr⟩
          fun b hb => hop ⟨b, hb⟩
        rw [hbus] at hst
        obtain ⟨k, hk, t, ht, hend⟩ :=
          ih { s with inputs := rest, haz := h, replies := r, draws := d } hr hp rfl
        exact ⟨k + 1, Nat.succ_le_succ hk, t, (run_succ_of_step core hst k).trans ht, hend⟩

/-! ## Accesses in a BUSY window (70_reset_and_hazards.md section 3) -/

/-- Any list of accesses in a BUSY window changes HAZ and what belongs to the outside world alone. -/
theorem foldl_busStep_of_busy {ops : List BusOp} {s : State} (hb : Busy s)
    (hops : ∀ op ∈ ops, ∀ b, op ≠ .resetPin b) :
    ∃ h r d, ops.foldl busStep s = { s with haz := h, replies := r, draws := d } := by
  induction ops generalizing s with
  | nil => exact ⟨s.haz, s.replies, s.draws, rfl⟩
  | cons op ops ih =>
    obtain ⟨h, r, d, hop⟩ := busStep_of_busy hb (hops op List.mem_cons_self)
    rw [List.foldl_cons, hop]
    exact ih (s := { s with haz := h, replies := r, draws := d }) hb
      fun op' h' => hops op' (List.mem_cons_of_mem _ h')

/-- STATUS is no operand. -/
theorem status_not_mem_readRegs (i : Instr) : Reg.status ∉ readRegs i := by
  cases i <;> decide

/-- States that differ in STATUS and the outside world's fields alone hold the same operands. -/
theorem sameOperands_of_kept {s s' : State} (hregs : RegsKept s s' []) (hbytes : AllBytesKept s s')
    (i : Instr) : SameOperands i s s' := by
  refine ⟨fun r hr => (hregs r ?_ List.not_mem_nil).symm, fun p _ k _ => (hbytes _).symm⟩
  rintro rfl
  exact status_not_mem_readRegs i hr

/-- An effect keeps the agreement of two states on registers and bytes. -/
theorem Effect.kept {i : Instr} {f : State → State} (h : Effect i f) {s s' : State}
    (hregs : RegsKept s s' []) (hbytes : AllBytesKept s s') :
    RegsKept (f s) (f s') [] ∧ AllBytesKept (f s) (f s') := by
  refine ⟨fun r hstatus hr => ?_, fun a => ?_⟩
  · by_cases hwritten : r ∈ writtenRegs i
    · exact h.sameRegs s' s r hwritten
    · rw [h.regsKept s' r hstatus hwritten, h.regsKept s r hstatus hwritten, hregs r hstatus hr]
  · rcases h.sameBytes s' s a with heq | ⟨hs', hs⟩
    · exact heq
    · rw [hs', hs, hbytes]

/-- Settles O8: the accesses in the window leave the command's operands alone, so its rule is the
same, and an effect keeps the agreement of the two states. -/
theorem commandSeesTheStateOfItsAcceptance : Obligations.CommandSeesTheStateOfItsAcceptance := by
  intro ops s i t hb hops ht
  obtain ⟨h, r, d, hfold⟩ := foldl_busStep_of_busy hb hops
  rw [hfold]
  obtain ⟨u, hu⟩ := exec_answers i { s with haz := h, replies := r, draws := d }
  have hregs : RegsKept s { s with haz := h, replies := r, draws := d } [] := by
    intro q hstatus _
    cases q with
    | status => exact absurd rfl hstatus
    | _ => rfl
  have hbytes : AllBytesKept s { s with haz := h, replies := r, draws := d } := fun _ => rfl
  refine ⟨u, hu, ?_⟩
  rcases exec_cases_of_rule_eq (commandRule_congr (sameOperands_of_kept hregs hbytes i)) ht hu with
    ⟨e, rfl, rfl⟩ | ⟨f, heffect, rfl, rfl⟩
  · refine ⟨rfl, rfl, fun q hstatus hq => ?_, hbytes⟩
    rw [State.readReg_finish _ _ hstatus, State.readReg_finish _ _ hstatus, hregs q hstatus hq]
  · obtain ⟨hregs', hbytes'⟩ := heffect.kept hregs hbytes
    refine ⟨rfl, rfl, fun q hstatus hq => ?_, hbytes'⟩
    rw [State.readReg_finish _ _ hstatus, State.readReg_finish _ _ hstatus, hregs' q hstatus hq]

end Sys2Proof.Machine
end

section
/-! SUPPORT. Proofs about the address map (20_memory.md R60, R61), the hardware reset
(70_reset_and_hazards.md section 1), and the steps that can change MATRIX (43_matrix.md R221). -/

namespace Sys2Proof.Machine

/-! ## The address map -/

theorem wordAddress_eq (a : Addr) : wordAddress a = a.toNat - a.toNat % 4 := by
  rw [wordAddress]
  omega

theorem wordAddress_mod (a : Addr) : wordAddress a % 4 = 0 := Nat.mul_mod_left _ _

/-- The word an access reaches is fixed by bits [11:2] of its address. -/
theorem wordAddress_congr {a b : Addr} (h : a.extractLsb' 2 10 = b.extractLsb' 2 10) :
    wordAddress a = wordAddress b := by
  have hbits : ∀ c : Addr, wordAddress c = (c.extractLsb' 2 10).toNat * 4 := by
    intro c
    have hc := c.isLt
    rw [wordAddress, BitVec.extractLsb'_toNat, Nat.shiftRight_eq_div_pow]
    omega
  rw [hbits, hbits, h]

theorem busRead_congr {a b : Addr} (h : wordAddress a = wordAddress b) (s : State) :
    busRead s a = busRead s b := by
  simp only [busRead, h]

theorem busWrite_congr {a b : Addr} (h : wordAddress a = wordAddress b) (s : State) (v : Word) :
    busWrite s a v = busWrite s b v := by
  simp only [busWrite, h]

/-- Every buffer lies in one of the ranges of the map. -/
theorem windowAt_of_outside {k : Nat} (hrw : ¬InRwBuffer k) (hro : ¬InRoBuffer k) :
    windowAt k = none := by
  rw [windowAt, List.find?_eq_none]
  intro w hw hc
  rw [Window.covers_iff] at hc
  simp only [windows, List.mem_cons, List.not_mem_nil, or_false] at hw
  rcases hw with rfl | rfl | rfl | rfl | rfl | rfl <;>
    simp only [textWindow, bitbufWindow, ecbufWindow, genbufWindow, finalWindow, matrixWindow] at hc <;>
    omega

theorem State.readWord_of_outside {k : Nat} (h : 0x05C ≤ k) (hrw : ¬InRwBuffer k)
    (hro : ¬InRoBuffer k) (s : State) : s.readWord k = 0 := by
  simp [State.readWord, regAt_of_reserved h, windowAt_of_outside hrw hro]

theorem State.writeWord_of_outside {k : Nat} (h : 0x05C ≤ k) (hrw : ¬InRwBuffer k)
    (hro : ¬InRoBuffer k) (s : State) (v : Word) : s.writeWord k v = s := by
  simp [State.writeWord, regAt_of_reserved h, windowAt_of_outside hrw hro]

/-- Settles O17: the word address drops bits [1:0], and the map has nothing outside its ranges. -/
theorem addressMapAccesses : Obligations.AddressMapAccesses := by
  refine ⟨wordAddress_eq, fun s a b v h => ?_, fun s a v ⟨hp, hr⟩ => ⟨fun hro => ?_,
    fun hlo hrw hro => ⟨?_, ?_⟩⟩⟩
  · exact ⟨busRead_congr (wordAddress_congr h) s, busWrite_congr (wordAddress_congr h) s v⟩
  · rw [busWrite_of_idle hp hr, State.writeWord_of_inRoBuffer hro]
  · rw [busWrite_of_idle hp hr, State.writeWord_of_outside hlo hrw hro]
  · rw [busRead_of_idle hp hr, State.readWord_of_outside hlo hrw hro, State.reply]

/-! ## Reset -/

theorem State.readByte_of_empty {s : State} (h : s.mem = []) (a : Nat) :
    s.readByte a = Config.powerOnByte s.epoch a &&& cellMask a := by
  rw [State.readByte, h, Memory.get?]

theorem busRead_of_reset {s : State} (hr : s.resetIn = true) (a : Addr) :
    busRead s a = s.replyUnspecified := by
  simp [busRead, hr]

/-- Settles O21: a reset event clears the registers and forgets every byte, and while reset is
asserted an access does nothing but answer a draw. -/
theorem hardwareReset : Obligations.HardwareReset := by
  refine ⟨fun s b => ⟨rfl, s.readReg_clearRegs (r := .status) (by decide), rfl, rfl, fun r hid => ?_,
    fun a => State.readByte_of_empty rfl a⟩, fun s a v hr => ⟨?_, ?_⟩⟩
  · have hsame : (busStep s (.resetPin b)).readReg r = s.clearRegs.readReg r := by cases r <;> rfl
    rw [hsame, State.readReg_clearRegs s hid]
  · rw [busWrite, if_pos hr]
  · rw [busRead_of_reset hr]
    rfl

/-- Settles O22: State.reset holds the values of the cleared registers and an empty memory. -/
theorem resetStateValues : Obligations.ResetStateValues := by
  refine ⟨fun r => ?_, ⟨rfl, rfl⟩, State.readByte_of_empty rfl, rfl, rfl, rfl, rfl⟩
  cases r <;> rfl

/-! ## Which steps change an RO buffer (43_matrix.md R221) -/

/-- A host write changes no byte of an RO buffer. -/
theorem State.writeWord_inRoBuffer (s : State) {k a : Nat} (hk : k % 4 = 0) (ha : InRoBuffer a)
    (v : Word) : (s.writeWord k v).readByte a = s.readByte a := by
  by_cases hro : InRoBuffer k
  · rw [State.writeWord_of_inRoBuffer hro]
  · exact s.writeWord_bytesKept k v a (by unfold InRoBuffer at ha hro; omega)

/-- Of the events of the outside world only a reset changes a byte of an RO buffer. -/
theorem busStep_inRoBuffer (s : State) {op : BusOp} (hop : ∀ b, op ≠ .resetPin b) {a : Nat}
    (ha : InRoBuffer a) : (busStep s op).readByte a = s.readByte a := by
  cases op with
  | resetPin b => exact absurd rfl (hop b)
  | read b => rcases busRead_cases s b with ⟨v, hv⟩ | hv <;> rw [busStep, hv] <;> rfl
  | write b v =>
    rw [busStep, busWrite]
    split
    · rfl
    · split
      · rfl
      · exact s.writeWord_inRoBuffer (wordAddress_mod b) ha v

theorem writtenBuffers_subset (i : Instr) : writtenBuffers i ⊆ windows := by
  cases i <;> decide

/-- No two buffers cover one address. -/
theorem covers_eq_false_of_ne {v w : Window} (hv : v ∈ windows) (hw : w ∈ windows) (hne : v ≠ w)
    {a : Nat} (ha : w.covers a = true) : v.covers a = false := by
  by_contra hva
  rw [Bool.not_eq_false] at hva
  exact hne (Option.some.inj ((windowAt_of_covers hv hva).symm.trans (windowAt_of_covers hw ha)))

/-- An effect keeps every buffer that is not listed for its command. -/
theorem Effect.window_kept {i : Instr} {f : State → State} (h : Effect i f) (s : State) {w : Window}
    (hw : w ∈ windows) (hnot : w ∉ writtenBuffers i) {a : Nat} (ha : w.covers a = true) :
    (f s).readByte a = s.readByte a := by
  refine h.readByte s fun v hv => covers_eq_false_of_ne (writtenBuffers_subset i hv) hw ?_ ha
  rintro rfl
  exact hnot hv

theorem matrixWindow_mem_writtenBuffers {i : Instr} (h : matrixWindow ∈ writtenBuffers i) :
    i = .placeMatrix ∨ i = .encode := by
  revert h
  cases i <;> decide

/-- The Engine changes a byte of MATRIX only for PLACE_MATRIX and ENCODE. -/
theorem engineStep_matrix_kept {s t : State} {w : Word} (h : engineStep s w = .next t)
    (hw : ¬(decode w = .command .placeMatrix ∨ decode w = .command .encode)) {a : Nat}
    (ha : matrixWindow.covers a = true) : t.readByte a = s.readByte a := by
  rcases engineStep_cases h with ⟨i, hdec, hexec⟩ | ⟨why, -, rfl⟩
  · rcases exec_cases hexec with ⟨e, -, rfl⟩ | ⟨f, -, heffect, rfl⟩
    · rfl
    · refine heffect.window_kept s (by decide) (fun hmem => hw ?_) ha
      rcases matrixWindow_mem_writtenBuffers hmem with rfl | rfl
      · exact .inl hdec
      · exact .inr hdec
  · rfl

/-- The byte a cell lies in is a byte of MATRIX. -/
theorem covers_cell {x y : Nat} (hx : x < 33) (hy : y < 33) :
    matrixWindow.covers (matrixWindow.base + 8 * y + x / 8) = true := by
  rw [Window.covers_iff]
  simp only [matrixWindow]
  omega

theorem inRoBuffer_of_covers_genbuf {a : Nat} (h : genbufWindow.covers a = true) :
    InRoBuffer a := by
  rw [Window.covers_iff] at h
  simp only [genbufWindow] at h
  unfold InRoBuffer
  omega

theorem inRoBuffer_of_covers_matrix {a : Nat} (h : matrixWindow.covers a = true) :
    InRoBuffer a := by
  rw [Window.covers_iff] at h
  simp only [matrixWindow] at h
  unfold InRoBuffer
  omega

/-- Settles O58: a cell is a bit of a byte of MATRIX, which the host cannot write, nor any command
but the two. -/
theorem onlyPlacementChangesTheMatrix : Obligations.OnlyPlacementChangesTheMatrix := by
  intro s t x y hst hx hy hne
  have hcov := covers_cell hx hy
  by_contra hother
  rw [not_or] at hother
  obtain ⟨hengine, hreset⟩ := hother
  refine hne (congrArg (fun b : Byte => b.getLsbD (x % 8)) ?_)
  rcases step_cases hst with ⟨w, hturn, -, -, he⟩ | ⟨e, rest, hturn, -, rfl⟩ | ⟨-, rfl⟩
  · exact engineStep_matrix_kept he (fun hdec => hengine ⟨w, hturn, hdec⟩) hcov
  · exact busStep_inRoBuffer { s with inputs := rest }
      (fun b hb => hreset ⟨b, rest, hb ▸ hturn⟩) (inRoBuffer_of_covers_matrix hcov)
  · rfl

end Sys2Proof.Machine
end

section
/-! SUPPORT. Proofs that the invariant holds at reset and that every step keeps it (10_state.md
sections 2 and 3, 43_matrix.md section 3): each clause is kept by every command that does not write what
it speaks of, and set anew by the few that do. -/

namespace Sys2Proof.Machine

/-! ## Reset -/

/-- Cleared registers and an empty memory meet the invariant: GEN_LEN and SIDE name nothing. -/
theorem inv_of_cleared {s : State} (hmem : s.mem = []) (hpending : s.pending = none)
    (hstatus : s.statusLegal = true) (hfield : s.fieldVal = 0) (htotal : s.capTotal = 0)
    (hdata : s.capData = 0) (hec : s.capEc = 0) (hgen : s.genLen = 0) (hside : s.side = 0) :
    Inv s where
  memory := by rw [hmem]; rfl
  status := hstatus
  reset := fun _ => hpending
  field := by rw [hfield]; exact Nat.two_pow_pos _
  capacity := by rw [htotal, hdata, hec]; rfl
  generator := fun h => absurd hgen h
  side := .inl hside
  matrix := fun h => absurd hside h

/-- Settles O23: the reset state is cleared. -/
theorem resetMeetsTheInvariant : Obligations.ResetMeetsTheInvariant :=
  inv_of_cleared rfl rfl (by decide) rfl rfl rfl rfl rfl rfl

theorem inv_setResetPin (s : State) (b : Bool) : Inv (setResetPin s b) :=
  inv_of_cleared rfl rfl s.hardwareReset_statusLegal rfl rfl rfl rfl rfl rfl

/-! ## The clauses of the invariant one by one -/

/-- The result registers the invariant speaks of, SIDE apart, are unchanged. -/
abbrev ResultsKept (s t : State) : Prop :=
  t.fieldVal = s.fieldVal ∧ t.fieldW = s.fieldW ∧ t.capTotal = s.capTotal ∧ t.capData = s.capData ∧
    t.capEc = s.capEc ∧ t.genLen = s.genLen

/-- The clause `Inv.generator`. -/
abbrev GeneratorShown (s : State) : Prop := s.genLen ≠ 0 →
  2 ≤ s.genLen.toNat ∧ s.genLen.toNat ≤ 33 ∧
    s.readBytes genbufWindow.base 64 = genbufImage (s.genLen.toNat - 1)

/-- The clause `Inv.matrix`. -/
abbrev MatrixShown (s : State) : Prop := s.side ≠ 0 → matrixShows s s.side.toNat

theorem GeneratorShown.congr {s t : State} (h : GeneratorShown s) (hgen : t.genLen = s.genLen)
    (hbytes : ∀ a, genbufWindow.covers a = true → t.readByte a = s.readByte a) :
    GeneratorShown t := by
  have hread : t.readBytes genbufWindow.base 64 = s.readBytes genbufWindow.base 64 :=
    readBytes_eq_of_agree fun k hk =>
      hbytes _ ((Window.covers_iff _ _).mpr ⟨Nat.le_add_right _ _, Nat.add_lt_add_left hk _⟩)
  rw [GeneratorShown, hgen, hread]
  exact h

theorem MatrixShown.congr {s t : State} (h : MatrixShown s) (hside : t.side = s.side)
    (hbytes : ∀ a, matrixWindow.covers a = true → t.readByte a = s.readByte a) :
    MatrixShown t := by
  have hcell : ∀ x y, x < 33 → y < 33 → t.cell x y = s.cell x y := fun x y hx hy =>
    congrArg (fun b : Byte => b.getLsbD (x % 8)) (hbytes _ (covers_cell hx hy))
  intro hne x y hx hy
  rw [hside] at hne ⊢
  rw [hcell x y hx hy]
  exact h hne x y hx hy

/-- A state that keeps what the invariant speaks of meets it: the result registers and the bytes of the
RO buffers. -/
theorem Inv.of_kept {s t : State} (h : Inv s) (hmem : t.mem.wf = true)
    (hstatus : t.statusLegal = true) (hreset : t.resetIn = true → t.pending = none)
    (hregs : ResultsKept s t) (hside : t.side = s.side)
    (hbytes : ∀ a, InRoBuffer a → t.readByte a = s.readByte a) :
    Inv t := by
  obtain ⟨hval, hw, htotal, hdata, hec, hgen⟩ := hregs
  exact {
    memory := hmem
    status := hstatus
    reset := hreset
    field := by rw [hval, hw]; exact h.field
    capacity := by rw [htotal, hdata, hec]; exact h.capacity
    generator := GeneratorShown.congr h.generator hgen fun a ha =>
      hbytes a (inRoBuffer_of_covers_genbuf ha)
    side := by rw [hside]; exact h.side
    matrix := MatrixShown.congr h.matrix hside fun a ha => hbytes a (inRoBuffer_of_covers_matrix ha) }

/-! ## The Engine -/

theorem State.writeStages_resultsKept (u : State) (v : Nat) (bits : Bits) (c : List Byte) :
    ResultsKept u (u.writeStages v bits c) := by
  simp [ResultsKept, State.writeStages]

/-- A store from the start of a buffer that does not outgrow it keeps the memory canonical. -/
theorem Memory.wf_store_window {m : Memory} (h : m.wf = true) {w : Window} (hw : w ∈ windows)
    {bs : List Byte} (hlen : bs.length ≤ w.size) : (m.store w.base bs).wf = true :=
  Memory.wf_store h hw le_rfl (Nat.add_le_add_left hlen _)

theorem State.writeBitbuf_mem_wf {s : State} (h : s.mem.wf = true) {bits : Bits}
    (hbits : bits.length ≤ 2048) : (s.writeBitbuf bits).mem.wf = true :=
  Memory.wf_store_window (w := bitbufWindow) h (by decide)
    ((packBits_length bits).trans_le (show _ ≤ 256 by omega))

theorem State.writeEcbuf_mem_wf {s : State} (h : s.mem.wf = true) {c : List Byte}
    (hc : c.length ≤ 32) : (s.writeEcbuf c).mem.wf = true :=
  Memory.wf_store_window (w := ecbufWindow) h (by decide) hc

theorem State.writeFinal_mem_wf {s : State} (h : s.mem.wf = true) {f : List Byte}
    (hf : f.length ≤ 512) : (s.writeFinal f).mem.wf = true :=
  Memory.wf_store_window (w := finalWindow) h (by decide) hf

theorem State.writeMatrix_mem_wf {s : State} (h : s.mem.wf = true) (v : Nat) (bits : Bits) :
    (s.writeMatrix v bits).mem.wf = true :=
  Memory.wf_store_window (w := matrixWindow) h (by decide) (matrixBytes_length _).le

theorem State.writeStages_mem_wf {s : State} (h : s.mem.wf = true) (v : Nat) {bits : Bits}
    {c : List Byte} (hbits : bits.length ≤ 2048) (hc : c.length ≤ 32) :
    (s.writeStages v bits c).mem.wf = true := by
  refine State.writeMatrix_mem_wf (State.writeFinal_mem_wf (State.writeEcbuf_mem_wf
    (State.writeBitbuf_mem_wf h hbits) hc) ?_) _ _
  rw [List.length_append, packBits_length]
  omega

/-- An effect stores only runs of bytes inside one buffer (log 15). -/
theorem Effect.mem_wf {i : Instr} {f : State → State} (h : Effect i f) {s : State}
    (hs : s.mem.wf = true) : (f s).mem.wf = true := by
  cases h with
  | buildBitstream m hbits | buildPadded t v hbits => exact State.writeBitbuf_mem_wf hs hbits
  | genPoly h1 h32 =>
    exact Memory.wf_store_window (w := genbufWindow) hs (by decide) (genbufImage_length h32).le
  | rsEncode hc => exact State.writeEcbuf_mem_wf hs hc
  | assemble hf => exact State.writeFinal_mem_wf hs hf
  | placeMatrix h1 h4 bits => exact State.writeMatrix_mem_wf hs _ bits
  | encode t h1 h4 hbits hc => exact State.writeStages_mem_wf (s := s.select t _) hs _ hbits hc
  | _ => exact hs

theorem Effect.field {i : Instr} {f : State → State} (h : Effect i f) {s : State}
    (hs : s.fieldVal.toNat < 2 ^ s.fieldW.toNat) :
    (f s).fieldVal.toNat < 2 ^ (f s).fieldW.toNat := by
  cases h with
  | indicator _ hx => exact hx
  | softReset => exact Nat.two_pow_pos _
  | @encode t v h1 h4 bits c =>
    obtain ⟨hval, hw, -⟩ := (s.select t v).writeStages_resultsKept v bits c
    rw [hval, hw]
    exact hs
  | _ => exact hs

theorem Effect.capacity {i : Instr} {f : State → State} (h : Effect i f) {s : State}
    (hs : s.capTotal.toNat = s.capData.toNat + s.capEc.toNat) :
    (f s).capTotal.toNat = (f s).capData.toNat + (f s).capEc.toNat := by
  cases h with
  | @capLookup v l r hrow m =>
    obtain ⟨hec, htotal⟩ := capRow_total_le hrow
    have h1 : (BitVec.ofNat 8 r.total).toNat = r.total := toNat_ofNat_of_lt (by omega)
    have h2 : (BitVec.ofNat 8 (r.total - r.ec)).toNat = r.total - r.ec :=
      toNat_ofNat_of_lt (by omega)
    have h3 : (BitVec.ofNat 7 r.ec).toNat = r.ec := toNat_ofNat_of_lt (by omega)
    simp only [State.withCapacity]
    omega
  | softReset => rfl
  | @encode t v h1 h4 bits c =>
    obtain ⟨-, -, htotal, hdata, hec, -⟩ := (s.select t v).writeStages_resultsKept v bits c
    rw [htotal, hdata, hec]
    exact hs
  | _ => exact hs

/-- GENBUF shows the generator after GEN_POLY, and no other command writes it. -/
theorem Effect.generator {i : Instr} {f : State → State} (h : Effect i f) {s : State}
    (hs : GeneratorShown s) : GeneratorShown (f s) := by
  have hkept : genbufWindow ∉ writtenBuffers i → ∀ a, genbufWindow.covers a = true →
      (f s).readByte a = s.readByte a := fun hnot a => h.window_kept s (by decide) hnot
  cases h with
  | @genPoly e h1 h32 =>
    have hlen : (s.writeGenbuf e).genLen.toNat = e + 1 := toNat_ofNat_of_lt (by omega)
    intro _
    rw [hlen, Nat.add_sub_cancel]
    refine ⟨by omega, by omega, ?_⟩
    rw [← genbufImage_length h32]
    exact s.readBytes_storeBytes genbufWindow.base _ (.inl (by rw [genbufImage_length h32]; decide))
  | softReset => exact fun hne => absurd rfl hne
  | @encode t v h1 h4 bits c =>
    obtain ⟨-, -, -, -, -, hgen⟩ := (s.select t v).writeStages_resultsKept v bits c
    exact hs.congr hgen (hkept (by decide))
  | indicator _ _ | gf _ _ => exact hs.congr rfl fun _ _ => rfl
  | _ => exact hs.congr rfl (hkept (by decide))

/-- The values SIDE can take (10_state.md R39). -/
abbrev SideLegal (n : BitVec 8) : Prop := n = 0 ∨ n = 21 ∨ n = 25 ∨ n = 29 ∨ n = 33

theorem sideLegal_sideOf {v : Nat} (h1 : 1 ≤ v) (h4 : v ≤ 4) :
    SideLegal (BitVec.ofNat 8 (sideOf v)) := by
  have hrom : ∀ v ∈ Config.capVersions, SideLegal (BitVec.ofNat 8 (sideOf v)) := by decide
  exact hrom v (mem_capVersions h1 h4)

theorem Effect.side {i : Instr} {f : State → State} (h : Effect i f) {s : State}
    (hs : SideLegal s.side) : SideLegal (f s).side := by
  cases h with
  | placeMatrix h1 h4 _ | encode _ h1 h4 _ _ => exact sideLegal_sideOf h1 h4
  | softReset => exact .inl rfl
  | _ => exact hs

/-- A symbol shown cell by cell shows its reserved cells. -/
theorem matrixShows_of_matrixHolds {t : State} {side : Nat} {bits : Bits}
    (h : matrixHolds t side bits) : matrixShows t side := by
  intro x y hx hy
  have hcell := h x y hx hy
  refine ⟨fun hout => by rw [hcell, if_pos hout], fun hxs hys b hb => ?_⟩
  rw [hcell, if_neg (by omega), hb]

/-- MATRIX shows the symbol of SIDE after a placement, and no other command writes it. -/
theorem Effect.matrix {i : Instr} {f : State → State} (h : Effect i f) {s : State}
    (hs : MatrixShown s) : MatrixShown (f s) := by
  have hkept : matrixWindow ∉ writtenBuffers i → ∀ a, matrixWindow.covers a = true →
      (f s).readByte a = s.readByte a := fun hnot a => h.window_kept s (by decide) hnot
  cases h with
  | @placeMatrix v h1 h4 bits =>
    intro _
    rw [s.writeMatrix_side_toNat h4]
    exact matrixShows_of_matrixHolds (s.matrixHolds_writeMatrix v bits)
  | @encode t v h1 h4 bits c =>
    intro _
    rw [(s.select t v).writeStages_side_toNat h4]
    exact matrixShows_of_matrixHolds ((s.select t v).writeStages_matrixHolds v bits c)
  | softReset => exact fun hne => absurd rfl hne
  | indicator _ _ | gf _ _ => exact hs.congr rfl fun _ _ => rfl
  | _ => exact hs.congr rfl (hkept (by decide))

/-- A completion that changes STATUS alone keeps the invariant. -/
theorem Inv.finish_error {s : State} (h : Inv s) (e : ErrCode) : Inv (s.finish (some e)) :=
  h.of_kept h.memory (s.finish_statusLegal _) (fun _ => rfl) ⟨rfl, rfl, rfl, rfl, rfl, rfl⟩ rfl
    fun _ _ => rfl

theorem Inv.engineStep {s t : State} {w : Word} (h : Inv s) (hst : engineStep s w = .next t) :
    Inv t := by
  rcases engineStep_cases hst with ⟨i, -, hexec⟩ | ⟨why, -, rfl⟩
  · rcases exec_cases hexec with ⟨e, -, rfl⟩ | ⟨f, -, heffect, rfl⟩
    · exact h.finish_error e
    · exact {
        memory := heffect.mem_wf h.memory
        status := State.finish_statusLegal _ _
        reset := fun _ => rfl
        field := heffect.field h.field
        capacity := heffect.capacity h.capacity
        generator := (heffect.generator h.generator).congr rfl fun _ _ => rfl
        side := heffect.side h.side
        matrix := (heffect.matrix h.matrix).congr rfl fun _ _ => rfl }
  · exact h.finish_error _

/-! ## The host -/

theorem State.writeReg_resultsKept (s : State) (r : Reg) (v : Word) :
    ResultsKept s (s.writeReg r v) ∧ (s.writeReg r v).side = s.side := by
  cases r with
  | status => rw [State.writeReg_status]; exact ⟨⟨rfl, rfl, rfl, rfl, rfl, rfl⟩, rfl⟩
  | _ => exact ⟨⟨rfl, rfl, rfl, rfl, rfl, rfl⟩, rfl⟩

theorem State.writeWord_resultsKept (s : State) (k : Nat) (v : Word) :
    ResultsKept s (s.writeWord k v) ∧ (s.writeWord k v).side = s.side := by
  rcases s.writeWord_cases k v with ⟨r, -, hw⟩ | hw | hw <;> rw [hw]
  · exact s.writeReg_resultsKept r v
  all_goals exact ⟨⟨rfl, rfl, rfl, rfl, rfl, rfl⟩, rfl⟩

/-- A word of the bus lies in one buffer if its first byte does. -/
theorem wf_store_unpackWord {m : Memory} (h : m.wf = true) {w : Window} {k : Nat}
    (hw : windowAt k = some w) (hk : k % 4 = 0) (v : Word) : (m.store k (unpackWord v)).wf = true := by
  have hmem : w ∈ windows := List.mem_of_find?_eq_some hw
  have hcov : w.covers k = true := List.find?_some (p := fun u : Window => u.covers k) hw
  have halign : ∀ w ∈ windows, w.base % 4 = 0 ∧ w.size % 4 = 0 := by decide
  obtain ⟨hbase, hsize⟩ := halign w hmem
  rw [Window.covers_iff] at hcov
  exact Memory.wf_store h hmem hcov.1 (by rw [unpackWord_length]; omega)

theorem State.writeWord_mem_wf {s : State} (h : s.mem.wf = true) {k : Nat} (hk : k % 4 = 0)
    (v : Word) : (s.writeWord k v).mem.wf = true := by
  unfold State.writeWord
  split
  · rwa [State.writeReg_mem]
  · split
    · next w hw =>
      split
      · exact wf_store_unpackWord h hw hk v
      · exact h
    · exact h

theorem Inv.busRead {s : State} (h : Inv s) (a : Addr) : Inv (busRead s a) := by
  rcases busRead_cases s a with ⟨v, hv⟩ | hv <;> rw [hv] <;>
    exact h.of_kept h.memory h.status h.reset ⟨rfl, rfl, rfl, rfl, rfl, rfl⟩ rfl fun _ _ => rfl

/-- A write does nothing in reset, sets HAZ in a BUSY window, and while idle reaches no result register
and no RO buffer. -/
theorem Inv.busWrite {s : State} (h : Inv s) (a : Addr) (v : Word) : Inv (busWrite s a v) := by
  cases hr : s.resetIn with
  | true => rwa [Machine.busWrite, if_pos hr]
  | false =>
    cases hp : s.pending with
    | some w =>
      rw [busWrite_of_busy (by simp [State.busy, hp]) hr]
      exact h.of_kept h.memory h.status h.reset ⟨rfl, rfl, rfl, rfl, rfl, rfl⟩ rfl fun _ _ => rfl
    | none =>
      have hstatus := busWrite_statusLegal h.status a v
      rw [busWrite_of_idle hp hr] at hstatus ⊢
      obtain ⟨hresults, hside⟩ := s.writeWord_resultsKept (wordAddress a) v
      obtain ⟨hreset, -⟩ := s.writeWord_envKept (wordAddress a) v
      refine h.of_kept (State.writeWord_mem_wf h.memory (wordAddress_mod a) v) hstatus
        (fun hin => ?_) hresults hside fun b hb => s.writeWord_inRoBuffer (wordAddress_mod a) hb v
      simp [hreset, hr] at hin

/-- Settles O24: a completion keeps each clause or sets it anew, an access reaches nothing the
invariant speaks of, and a reset clears it all. -/
theorem stepKeepsTheInvariant : Obligations.StepKeepsTheInvariant := by
  intro s t h hst
  rcases step_cases hst with ⟨w, -, -, -, he⟩ | ⟨e, rest, -, -, rfl⟩ | ⟨-, rfl⟩
  · exact h.engineStep he
  · have h' : Inv { s with inputs := rest } :=
      h.of_kept h.memory h.status h.reset ⟨rfl, rfl, rfl, rfl, rfl, rfl⟩ rfl fun _ _ => rfl
    cases hop : e.op with
    | read a => exact h'.busRead a
    | write a v => exact h'.busWrite a v
    | resetPin b => exact inv_setResetPin _ b
  · exact h

end Sys2Proof.Machine
end

section
/-! SUPPORT. Proofs about the polynomial divider (42_reed_solomon.md R185, R187): an iteration subtracts
the multiple of the generator that cancels the leading term, so the last list is the remainder of the
message polynomial, and the codeword vanishes wherever the generator does. -/

namespace Sys2Proof.Machine

/-! ## Sums of polynomials -/

theorem ext_getD {p q : List Byte} (hlen : p.length = q.length)
    (h : ∀ k, p.getD k 0 = q.getD k 0) : p = q := by
  refine List.ext_getElem hlen fun k hp hq => ?_
  have hk := h k
  rwa [List.getD_eq_getElem _ _ hp, List.getD_eq_getElem _ _ hq] at hk

theorem xorTerms_assoc (p q r : List Byte) :
    xorTerms (xorTerms p q) r = xorTerms p (xorTerms q r) := by
  refine ext_getD (by simp only [xorTerms_length, Nat.max_assoc]) fun k => ?_
  simp only [xorTerms_getD, BitVec.xor_assoc]

theorem xorTerms_append_right {p q : List Byte} (h : p.length ≤ q.length) (r : List Byte) :
    xorTerms p (q ++ r) = xorTerms p q ++ r := by
  induction p generalizing q with
  | nil => simp [xorTerms]
  | cons a p ih =>
    cases q with
    | nil => simp at h
    | cons b q =>
      rw [List.cons_append, xorTerms, xorTerms, ih (Nat.le_of_succ_le_succ h), List.cons_append]

theorem polyAdd_length (p q : List Byte) : (polyAdd p q).length = max p.length q.length := by
  simp [polyAdd, xorTerms_length]

theorem polyAdd_nil_left (p : List Byte) : polyAdd [] p = p := by
  simp [polyAdd, xorTerms]

theorem polyAdd_assoc (p q r : List Byte) :
    polyAdd (polyAdd p q) r = polyAdd p (polyAdd q r) := by
  simp only [polyAdd, List.reverse_reverse, xorTerms_assoc]

/-- A leading coefficient 0 passes out of a sum that does not reach it. -/
theorem polyAdd_zero_cons {p q : List Byte} (h : p.length ≤ q.length) :
    polyAdd p (0 :: q) = 0 :: polyAdd p q := by
  rw [polyAdd, List.reverse_cons, xorTerms_append_right (by simpa using h), List.reverse_append,
    List.reverse_singleton, List.singleton_append, polyAdd]

/-- Polynomials of one length are aligned at both ends. -/
theorem polyAdd_eq_xorTerms {p q : List Byte} (h : p.length = q.length) :
    polyAdd p q = xorTerms p q := by
  induction p generalizing q with
  | nil =>
    rw [polyAdd_nil_left, xorTerms]
  | cons a p ih =>
    cases q with
    | nil => simp at h
    | cons b q =>
      have hlen : p.length = q.length := Nat.succ.inj h
      rw [polyAdd, List.reverse_cons, List.reverse_cons, xorTerms_concat (by simpa using hlen),
        List.reverse_concat, xorTerms, ← ih hlen, polyAdd]

theorem polyMul_length_le (q : List Byte) {g : List Byte} {e : Nat} (hg : g.length = e + 1) :
    (polyMul q g).length ≤ q.length + e := by
  induction q with
  | nil => exact Nat.zero_le _
  | cons a q ih =>
    rw [polyMul, polyAdd_length, List.length_append, List.length_map, List.length_replicate, hg,
      List.length_cons]
    omega

/-! ## One iteration (42_reed_solomon.md R185) -/

/-- The multiple of the generator of degree e that has the given leading coefficient. -/
def genMultiple (e : Nat) (lead : Byte) : List Byte := (genCoeffs e).map (gmul lead)

@[simp] theorem genMultiple_length (e : Nat) (lead : Byte) :
    (genMultiple e lead).length = e + 1 := by
  rw [genMultiple, List.length_map, genCoeffs_length]

theorem genMultiple_getD_zero (e : Nat) (lead : Byte) : (genMultiple e lead).getD 0 0 = lead := by
  have hmap := List.getD_map (l := genCoeffs e) (n := 0) (d := 0) (gmul lead)
  rw [gmul_zero_right, genCoeffs_getD_zero, gmul_one_right] at hmap
  exact hmap

/-- The product of logarithms is the product of the coefficients, since none of them is 0. -/
theorem leadProduct_genAlpha {e : Nat} (he : e < 255) (lead : Byte) :
    leadProduct (genAlpha e) lead = genMultiple e lead := by
  rw [leadProduct, genAlpha, List.map_map, genMultiple]
  refine List.map_congr_left fun c hc => ?_
  obtain ⟨l, hl, -⟩ := logRom_spec (genCoeffs_ne_zero he c hc)
  rw [Function.comp_apply, alphaOf, gmul, hl]
  cases logRom lead <;> rfl

theorem divideStep_genAlpha {e : Nat} (he : e < 255) (w : List Byte) :
    divideStep (genAlpha e) w = (xorTerms w (genMultiple e (w.getD 0 0))).tail := by
  have hhead : w.headD 0 = w.getD 0 0 := by cases w <;> rfl
  rw [divideStep, leadProduct_genAlpha he, hhead]

theorem tail_getD (p : List Byte) (k : Nat) : p.tail.getD k 0 = p.getD (k + 1) 0 := by
  cases p <;> rfl

theorem getD_append_zeros (p : List Byte) (m k : Nat) :
    (p ++ List.replicate m 0).getD k 0 = p.getD k 0 := by
  induction m with
  | zero => rw [List.replicate_zero, List.append_nil]
  | succ m ih => rw [List.replicate_succ', ← List.append_assoc, getD_concat_zero, ih]

theorem divideStep_length {e m : Nat} (he : e < 255) {w : List Byte} (hw : w.length = m + 1 + e) :
    (divideStep (genAlpha e) w).length = m + e := by
  rw [divideStep_genAlpha he, List.length_tail, xorTerms_length, genMultiple_length, hw]
  omega

theorem divideLoop_length {e m : Nat} (he : e < 255) {w : List Byte} (hw : w.length = m + e) :
    (divideLoop (genAlpha e) m w).length = e := by
  induction m generalizing w with
  | zero => rwa [divideLoop, ← Nat.zero_add e]
  | succ m ih => exact ih (divideStep_length he hw)

/-- An iteration takes off a multiple of the generator, aligned at the leading term. -/
theorem eq_multiple_add_divideStep {e m : Nat} (he : e < 255) {w : List Byte}
    (hw : w.length = m + 1 + e) :
    xorTerms (genMultiple e (w.getD 0 0) ++ List.replicate m 0) (0 :: divideStep (genAlpha e) w) =
      w := by
  refine ext_getD ?_ fun k => ?_
  · simp only [xorTerms_length, List.length_append, genMultiple_length, List.length_replicate,
      List.length_cons, divideStep_length he hw]
    omega
  · rw [xorTerms_getD, getD_append_zeros, divideStep_genAlpha he]
    cases k with
    | zero => rw [genMultiple_getD_zero, List.getD_cons_zero]; exact BitVec.xor_zero
    | succ k =>
      rw [List.getD_cons_succ, tail_getD, xorTerms_getD, BitVec.xor_comm (w.getD _ _),
        ← BitVec.xor_assoc, BitVec.xor_self, BitVec.zero_xor]

/-! ## The division -/

/-- Two lists with the same coefficients, one perhaps continued by zeros. -/
abbrev SameCoeffs (p q : List Byte) : Prop := ∀ k, p.getD k 0 = q.getD k 0

theorem SameCoeffs.divideLoop {e : Nat} (he : e < 255) {p q : List Byte} (h : SameCoeffs p q)
    (n : Nat) : SameCoeffs (divideLoop (genAlpha e) n p) (divideLoop (genAlpha e) n q) := by
  induction n generalizing p q with
  | zero => exact h
  | succ n ih =>
    refine ih fun k => ?_
    rw [divideStep_genAlpha he, divideStep_genAlpha he, tail_getD, tail_getD, xorTerms_getD,
      xorTerms_getD, h, h]

/-- The divider works on the message polynomial: the data continued by e zeros. -/
theorem divide_eq_divideLoop (d : List Byte) {e : Nat} (he : e < 255) :
    divide d e = divideLoop (genAlpha e) d.length (d ++ List.replicate e 0) := by
  have hlen := divideLoop_length he (w := d ++ List.replicate e 0) (m := d.length) (by simp)
  refine ext_getD (by rw [divide_length, hlen]) fun k => ?_
  have hsame := SameCoeffs.divideLoop he (fun k => (getD_append_zeros d e k).symm) d.length k
  by_cases hk : k < e
  · have htake : (divide d e).getD k 0 =
        (divideLoop (genAlpha e) d.length d ++ List.replicate e 0).getD k 0 := by
      rw [divide, List.getD_eq_getElem?_getD, List.getElem?_take_of_lt hk,
        List.getD_eq_getElem?_getD]
    rw [htake, getD_append_zeros, hsame]
  · rw [List.getD_eq_default _ _ (by rw [divide_length]; omega),
      List.getD_eq_default _ _ (by rw [hlen]; omega)]

/-- The multiples an m-fold division takes off make up a quotient of m coefficients. -/
theorem exists_quotient {e m : Nat} (he : e < 255) {w : List Byte} (hw : w.length = m + e) :
    ∃ q : List Byte, q.length = m ∧ polyAdd (polyMul q (genCoeffs e))
      (List.replicate m 0 ++ divideLoop (genAlpha e) m w) = w := by
  induction m generalizing w with
  | zero => exact ⟨[], rfl, polyAdd_nil_left w⟩
  | succ m ih =>
    have hstep := divideStep_length he hw
    obtain ⟨q, hq, hquot⟩ := ih hstep
    have hrest : (List.replicate m 0 ++ divideLoop (genAlpha e) (m + 1) w).length = m + e := by
      rw [List.length_append, List.length_replicate, divideLoop_length he hw]
    have hmul := polyMul_length_le q (genCoeffs_length e)
    refine ⟨w.getD 0 0 :: q, by rw [List.length_cons, hq], ?_⟩
    calc polyAdd (polyMul (w.getD 0 0 :: q) (genCoeffs e))
          (List.replicate (m + 1) 0 ++ divideLoop (genAlpha e) (m + 1) w)
        = polyAdd (genMultiple e (w.getD 0 0) ++ List.replicate m 0)
            (polyAdd (polyMul q (genCoeffs e))
              (0 :: (List.replicate m 0 ++ divideLoop (genAlpha e) (m + 1) w))) := by
          rw [polyMul, hq, polyAdd_assoc, List.replicate_succ, List.cons_append, genMultiple]
      _ = polyAdd (genMultiple e (w.getD 0 0) ++ List.replicate m 0)
            (0 :: divideStep (genAlpha e) w) := by
          rw [polyAdd_zero_cons (by omega), divideLoop, hquot]
      _ = w := by
          rw [polyAdd_eq_xorTerms, eq_multiple_add_divideStep he hw]
          simp only [List.length_append, genMultiple_length, List.length_replicate,
            List.length_cons, hstep]
          omega

/-- Settles O51: the quotient of the message polynomial, one coefficient an iteration. -/
theorem ecCodewordsAreTheRemainder : Obligations.EcCodewordsAreTheRemainder := by
  intro d e _ he
  have hlt : e < 255 := by omega
  refine ⟨divide_length d e, ?_⟩
  rw [divide_eq_divideLoop d hlt]
  exact exists_quotient hlt (by rw [List.length_append, List.length_replicate])

/-! ## Values at the roots of the generator -/

theorem polyEval_genCoeffs_root {e i : Nat} (hi : i < e) :
    polyEval (genCoeffs e) (alphaPower i) = 0 := by
  induction e with
  | zero => omega
  | succ e ih =>
    rw [polyEval_genCoeffs_succ]
    rcases Nat.lt_succ_iff_lt_or_eq.mp hi with h | rfl
    · rw [ih h, gmul_zero_left]
    · rw [BitVec.xor_self]
      exact gmul_zero_right _

/-- Appending coefficients multiplies by a power of the element and adds their value. -/
theorem polyEval_append (p c : List Byte) (x : Byte) :
    polyEval (p ++ c) x = polyEval (p ++ List.replicate c.length 0) x ^^^ polyEval c x := by
  induction c using List.reverseRecOn with
  | nil => exact BitVec.xor_zero.symm
  | append_singleton c a ih =>
    rw [← List.append_assoc, polyEval_concat, ih, List.length_append, List.length_singleton,
      List.replicate_succ', ← List.append_assoc, polyEval_concat_zero, polyEval_concat,
      gmul_xor_left, BitVec.xor_assoc]

theorem polyEval_append_zeros {p : List Byte} {x : Byte} (h : polyEval p x = 0) (m : Nat) :
    polyEval (p ++ List.replicate m 0) x = 0 := by
  induction m with
  | zero => rw [List.replicate_zero, List.append_nil, h]
  | succ m ih =>
    rw [List.replicate_succ', ← List.append_assoc, polyEval_concat_zero, ih, gmul_zero_left]

/-- At a root of the generator the division does not change the value. -/
theorem polyEval_divideLoop {e i m : Nat} (he : e < 255) (hi : i < e) {w : List Byte}
    (hw : w.length = m + e) :
    polyEval (divideLoop (genAlpha e) m w) (alphaPower i) = polyEval w (alphaPower i) := by
  induction m generalizing w with
  | zero => rfl
  | succ m ih =>
    have hstep := divideStep_length he hw
    have hmultiple : polyEval (genMultiple e (w.getD 0 0) ++ List.replicate m 0) (alphaPower i) = 0 :=
      polyEval_append_zeros
        (by rw [genMultiple, polyEval_map_gmul, polyEval_genCoeffs_root hi, gmul_zero_right]) m
    have hlen : (genMultiple e (w.getD 0 0) ++ List.replicate m 0).length =
        (0 :: divideStep (genAlpha e) w).length := by
      simp only [List.length_append, genMultiple_length, List.length_replicate, List.length_cons, hstep]
      omega
    rw [divideLoop, ih hstep]
    conv_rhs => rw [← eq_multiple_add_divideStep he hw, polyEval_xorTerms hlen, hmultiple,
      polyEval_zero_cons]
    exact BitVec.zero_xor.symm

/-- Settles O52: at a root the message polynomial has the value of its remainder, so that the two
cancel in the codeword. -/
theorem codewordsVanishAtTheRoots : Obligations.CodewordsVanishAtTheRoots := by
  intro d e i _ he hi
  have hlt : e < 255 := by omega
  rw [← alphaPower_eq (by omega), polyEval_append, divide_length]
  have hvalue : polyEval (divide d e) (alphaPower i) =
      polyEval (d ++ List.replicate e 0) (alphaPower i) := by
    rw [divide_eq_divideLoop d hlt]
    exact polyEval_divideLoop hlt hi (by rw [List.length_append, List.length_replicate])
  rw [hvalue, BitVec.xor_self]
  rfl

end Sys2Proof.Machine
end

section
/-! SUPPORT. Proofs about the number of available cells (43_matrix.md R219): with the reserved cells they
fill the square, and the codewords of every version fit in them. -/

namespace Sys2Proof.Machine

/-! ## Counting the available cells -/

/-- The available cells of a row. -/
def availableInRow (side y : Nat) : List (Nat × Nat) :=
  ((List.range side).filter (fun x => !(patternAt side x y).isSome)).map fun x => (x, y)

/-- The available cells of the square, row by row. -/
def availableCells (side : Nat) : List (Nat × Nat) := (List.range side).flatMap (availableInRow side)

theorem mem_availableInRow_iff {side x y y' : Nat} : (x, y) ∈ availableInRow side y' ↔
    y = y' ∧ x < side ∧ patternAt side x y = none := by
  simp only [availableInRow, List.mem_map, List.mem_filter, List.mem_range, Prod.mk.injEq,
    Bool.not_eq_true', Option.isSome_eq_false_iff, Option.isNone_iff_eq_none]
  constructor
  · rintro ⟨x', ⟨hx, hnone⟩, rfl, rfl⟩
    exact ⟨rfl, hx, hnone⟩
  · rintro ⟨rfl, hx, hnone⟩
    exact ⟨x, ⟨hx, hnone⟩, rfl, rfl⟩

theorem mem_availableCells_iff {side x y : Nat} :
    (x, y) ∈ availableCells side ↔ x < side ∧ y < side ∧ patternAt side x y = none := by
  simp only [availableCells, List.mem_flatMap, List.mem_range, mem_availableInRow_iff]
  constructor
  · rintro ⟨y', hy, rfl, hx, hnone⟩
    exact ⟨hx, hy, hnone⟩
  · rintro ⟨hx, hy, hnone⟩
    exact ⟨y, hy, rfl, hx, hnone⟩

theorem availableCells_nodup (side : Nat) : (availableCells side).Nodup := by
  refine List.nodup_flatMap.mpr ⟨fun y _ => ?_, ?_⟩
  · exact (List.nodup_range.filter _).map fun x x' h => (Prod.mk.inj h).1
  · refine List.pairwise_lt_range.imp fun {y y'} hlt => ?_
    rintro ⟨x, z⟩ hy hy'
    have h1 := (mem_availableInRow_iff.mp hy).1
    have h2 := (mem_availableInRow_iff.mp hy').1
    omega

theorem length_availableInRow (side y : Nat) :
    (availableInRow side y).length + reservedInRow side y = side := by
  have h := List.length_eq_length_filter_add (l := List.range side)
    (fun x => (patternAt side x y).isSome)
  rw [List.length_range] at h
  rw [availableInRow, List.length_map, reservedInRow]
  omega

/-- The available and the reserved cells fill the square. -/
theorem length_availableCells (side : Nat) :
    (availableCells side).length + ((List.range side).map (reservedInRow side)).sum = side * side := by
  rw [availableCells, List.length_flatMap, ← List.sum_map_add,
    sum_map_range_of_eq fun y _ => length_availableInRow side y]

/-- The placement order lists the available cells, each once. -/
theorem placementOrder_perm (v : Nat) :
    (placementOrder (sideOf v)).Perm (availableCells (sideOf v)) := by
  refine (List.perm_ext_iff_of_nodup (placementOrder_sideOf_nodup v)
    (availableCells_nodup _)).mpr fun ⟨x, y⟩ => ?_
  rw [mem_placementOrder_sideOf_iff, mem_availableCells_iff]

theorem placementOrder_length (v : Nat) :
    (placementOrder (sideOf v)).length + (192 + 2 * (4 * v + 1)) = sideOf v * sideOf v := by
  have hside : sideOf v = 8 + (4 * v + 1) + 8 := by
    rw [sideOf]
    omega
  have hcount := length_availableCells (sideOf v)
  have hreserved := sum_reservedInRow (4 * v + 1)
  rw [← hside] at hreserved
  rw [(placementOrder_perm v).length_eq, ← hcount, hreserved]

/-- Every row of the ROM has a codeword count whose bits fit the cells of its version. -/
theorem capRow_total_fits {v : Nat} {l : Level} {r : CapRow} (h : capRow v l = some r) :
    8 * r.total + (192 + 2 * (4 * v + 1)) < sideOf v * sideOf v := by
  have hrom : ∀ v ∈ Config.capVersions, ∀ l ∈ [Level.L, .M, .Q, .H],
      ∀ r ∈ capRow v l, 8 * r.total + (192 + 2 * (4 * v + 1)) < sideOf v * sideOf v := by decide
  obtain ⟨h1, h4⟩ := (capRow_isSome v l).mp (by rw [h]; rfl)
  exact hrom v (mem_capVersions h1 h4) l (mem_levels l) r h

/-- Settles O56: the cells of the square less the reserved ones, counted row by row. -/
theorem availableCellCounts : Obligations.AvailableCellCounts := by
  refine ⟨?_, fun v l r h => ?_⟩
  · have hlen : ∀ v, (placementOrder (sideOf v)).length =
        sideOf v * sideOf v - (192 + 2 * (4 * v + 1)) := fun v => by
      have := placementOrder_length v
      omega
    simp only [hlen]
    decide
  · have := placementOrder_length v
    have := capRow_total_fits h
    omega

end Sys2Proof.Machine
end

section
/-! SUPPORT. Proof that ENCODE is its four stages run as commands (44_control.md R243): each stage finds
its operands where the stages before left them. -/

namespace Sys2Proof.Machine

/-! ## Operands that a stage left -/

theorem codewordOperand_writeBitbuf (s : State) {bits : Bits} (hlen : bits.length ≤ 2048)
    (h8 : bits.length % 8 = 0) :
    codewordOperand ((s.writeBitbuf bits).finish none) = .ok (packBits bits) := by
  have hbitLen : ((s.writeBitbuf bits).finish none).bitLen.toNat = bits.length :=
    s.writeBitbuf_bitLen_toNat hlen
  have hbytes : bits.length / 8 = (packBits bits).length := by
    rw [packBits_length]
    omega
  rw [codewordOperand_ok (by omega) (by omega), hbitLen, hbytes]
  exact congrArg _ (s.writeBitbuf_holds hlen)

/-- The EC codewords lie past BITBUF. -/
theorem codewordOperand_writeEcbuf {s : State} {d : List Byte} (h : codewordOperand s = .ok d)
    (c : List Byte) : codewordOperand ((s.writeEcbuf c).finish none) = .ok d := by
  have hlen : s.bitLen.toNat ≤ 2048 := by
    by_contra hlong
    rw [codewordOperand_error (by omega)] at h
    cases h
  rw [← h]
  have hbase : bitbufWindow.base = 0x200 := rfl
  exact codewordOperand_congr (s := (s.writeEcbuf c).finish none) (u := s) rfl fun k hk =>
    s.writeEcbuf_bytesKept c _ (by have : k < s.bitLen.toNat / 8 := hk; omega)

theorem ecOperand_writeEcbuf (s : State) {c : List Byte} (hc : c.length ≤ 32) :
    ecOperand ((s.writeEcbuf c).finish none) = .ok c := by
  have hlen : ((s.writeEcbuf c).finish none).ecLen.toNat = c.length := toNat_ofNat_of_lt (by omega)
  rw [ecOperand_ok (by omega), hlen]
  exact congrArg _ (s.writeEcbuf_holds hc)

theorem finalOperand_writeFinal (s : State) {f : List Byte} (hf : f.length ≤ 512) :
    finalOperand ((s.writeFinal f).finish none) = .ok f := by
  have hlen : ((s.writeFinal f).finish none).finalLen.toNat = f.length :=
    toNat_ofNat_of_lt (by omega)
  rw [finalOperand_ok (by omega), hlen]
  exact congrArg _ (s.writeFinal_holds hf)

/-! ## ENCODE stage by stage (44_control.md R243) -/

theorem exec_of_rule {i : Instr} {s : State} {f : State → State} (h : commandRule i s = .ok f) :
    exec i s = .next ((f s).finish none) := by
  rw [exec_eq_complete_rule, h]
  rfl

/-- What a success of ENCODE found: a text with a version of a single block. -/
theorem commandRule_encode_ok {s : State} {f : State → State} (h : commandRule .encode s = .ok f) :
    ∃ t v r, versionOperand s = .ok (t, v) ∧ capRow v (levelOf s.level) = some r ∧ r.blocks = 1 ∧
      f = fun u => (u.select t v).writeStages v (padded t v (levelOf s.level))
        (divide (packBits (padded t v (levelOf s.level))) r.ec) := by
  dsimp only [commandRule] at h
  split at h
  · cases h
  · next t v hv =>
    split at h
    · next hblock =>
      cases h
      cases hrow : capRow v (levelOf s.level) with
      | none => simp [singleBlock, hrow] at hblock
      | some r =>
        exact ⟨t, v, r, hv, hrow, by simpa [singleBlock, hrow] using hblock, by rw [ecCount, hrow]⟩
    · cases h

theorem exec_rsEncode_of_operand {s : State} {d : List Byte} {r : CapRow}
    (hd : codewordOperand s = .ok d) (hrow : capRow s.version.toNat (levelOf s.level) = some r)
    (hb : r.blocks = 1) :
    exec .rsEncode s = .next ((s.writeEcbuf (divide d r.ec)).finish none) := by
  refine exec_of_rule (f := (·.writeEcbuf (divide d r.ec))) ?_
  simp only [commandRule, hd, hrow, hb, ne_eq, not_true_eq_false, if_false]

theorem exec_assemble_of_operands {s : State} {d c : List Byte} (hd : codewordOperand s = .ok d)
    (hc : ecOperand s = .ok c) : exec .assemble s = .next ((s.writeFinal (d ++ c)).finish none) := by
  refine exec_of_rule (f := (·.writeFinal (d ++ c))) ?_
  simp only [commandRule, hd, hc]
  rfl

theorem exec_placeMatrix_of_operand {s : State} {f : List Byte} {v : Nat}
    (hf : finalOperand s = .ok f) (hv : s.version.toNat = v) (h1 : 1 ≤ v) (h4 : v ≤ 4)
    (hfit : 8 * f.length ≤ (placementOrder (sideOf v)).length) :
    exec .placeMatrix s = .next ((s.writeMatrix v (byteBits f)).finish none) := by
  refine exec_of_rule (f := (·.writeMatrix v (byteBits f))) ?_
  have hversion : ¬(v = 0 ∨ Config.maxMatrixVersion < v) := by
    rw [Config.maxMatrixVersion]
    omega
  have hbits : ¬(placementOrder (sideOf v)).length < (bitsOfBytes f).length := by
    rw [bitsOfBytes_length]
    omega
  simp only [commandRule, hf, hv, if_neg hversion, if_neg hbits]
  rfl

/-- The completions between the stages change STATUS alone, which the last one sets again. -/
theorem State.writeStages_finish (u : State) (v : Nat) (bits : Bits) (c : List Byte) :
    (((((((u.writeBitbuf bits).finish none).writeEcbuf c).finish none).writeFinal
      (packBits bits ++ c)).finish none).writeMatrix v (byteBits (packBits bits ++ c))).finish none =
    (u.writeStages v bits c).finish none := rfl

/-- The last three stages run as commands, from the state BUILD_PADDED leaves: each finds its operands
where the stages before left them, and the codewords fit the available cells. -/
theorem stages_run_as_commands {u : State} {v : Nat} {r : CapRow} {bits : Bits}
    (hversion : u.version.toNat = v) (hrow : capRow v (levelOf u.level) = some r) (hb : r.blocks = 1)
    (hbits : bits.length = 8 * (r.total - r.ec)) :
    ∃ s2 s3, exec .rsEncode ((u.writeBitbuf bits).finish none) = .next s2 ∧ s2.err = false ∧
      exec .assemble s2 = .next s3 ∧ s3.err = false ∧ exec .placeMatrix s3 =
        .next ((u.writeStages v bits (divide (packBits bits) r.ec)).finish none) := by
  obtain ⟨h1, h4⟩ := (capRow_isSome v (levelOf u.level)).mp (by rw [hrow]; rfl)
  obtain ⟨htotal, h100⟩ := capRow_total_le hrow
  have hec := capRow_ec_le hrow hb
  have hfits := capRow_total_fits hrow
  have hcells := placementOrder_length v
  have hc := divide_length (packBits bits) r.ec
  have hf : (packBits bits ++ divide (packBits bits) r.ec).length = r.total := by
    rw [List.length_append, packBits_length]
    omega
  have hdata := codewordOperand_writeBitbuf u (bits := bits) (by omega) (by omega)
  have hrs := exec_rsEncode_of_operand hdata (r := r) (by rw [← hversion] at hrow; exact hrow) hb
  have hasm := exec_assemble_of_operands
    (codewordOperand_writeEcbuf hdata (divide (packBits bits) r.ec))
    (ecOperand_writeEcbuf _ (by omega))
  refine ⟨_, _, hrs, rfl, hasm, rfl, ?_⟩
  rw [← u.writeStages_finish v bits _]
  exact exec_placeMatrix_of_operand (finalOperand_writeFinal _ (by omega)) hversion h1 h4 (by omega)

/-- Settles O60: what ENCODE found is what BUILD_PADDED finds, and the last three stages follow. -/
theorem encodeEqualsTheFourCommands : Obligations.EncodeEqualsTheFourCommands := by
  intro s t hexec herr
  rcases exec_cases hexec with ⟨e, -, rfl⟩ | ⟨f, hrule, -, rfl⟩
  · simp at herr
  obtain ⟨txt, v, r, hv, hrow, hb, rfl⟩ := commandRule_encode_ok hrule
  have hsmallest := versionOperand_spec hv
  obtain ⟨-, h4⟩ := smallestVersion_range hsmallest
  have hbuild := exec_of_rule (i := .buildPadded) (s := s)
    (f := fun u => (u.select txt v).writeBitbuf (padded txt v (levelOf s.level)))
    (by simp only [commandRule, hv]; rfl)
  obtain ⟨s2, s3, hstages⟩ := stages_run_as_commands (u := s.select txt v)
    (versionField_toNat h4) hrow hb ((padded_length hsmallest).trans (capBits_eq hrow))
  exact ⟨_, s2, s3, hbuild, rfl, hstages⟩

end Sys2Proof.Machine
end
